-- ==== Sys2Proof/Word.lean ====
section
/-! DEFINITION. Word.lean: the widths of the block (00_scope.md R10, R11) and the eight parallel lanes of a
filter (R10 `P_NCH`). -/

namespace Sys2Proof

/-- One byte of a buffer, of the wire or of a command word (R11). -/
abbrev Byte := BitVec 8

/-- A 16-bit pattern: a CRC, a sample value read as `s16` (R12), a tick count. -/
abbrev Half := BitVec 16

/-- A 32-bit word of the host bus, a command word, a timestamp (R10). -/
abbrev Word := BitVec 32

/-- A host byte address 0x000..0xFFF (R10, 20_memory.md R90). -/
abbrev Addr := BitVec 12

/-- A buffer index or length, 9 bits unsigned (R13). -/
abbrev Len := BitVec 9

/-- One value per filter lane: the block has `P_NCH` = 8 lanes and no lane-count setting (R10, 44_median.md R287). -/
structure Lanes (α : Type) where
  l0 : α
  l1 : α
  l2 : α
  l3 : α
  l4 : α
  l5 : α
  l6 : α
  l7 : α
deriving DecidableEq, Repr

namespace Lanes

variable {α : Type}

/-- The value of lane `c`. -/
def get (v : Lanes α) (c : Fin 8) : α :=
  match c with
  | 0 => v.l0
  | 1 => v.l1
  | 2 => v.l2
  | 3 => v.l3
  | 4 => v.l4
  | 5 => v.l5
  | 6 => v.l6
  | 7 => v.l7

/-- The lanes whose lane `c` is `f c`. -/
def ofFn (f : Fin 8 → α) : Lanes α := ⟨f 0, f 1, f 2, f 3, f 4, f 5, f 6, f 7⟩

/-- Every lane the same. -/
def fill (x : α) : Lanes α := ⟨x, x, x, x, x, x, x, x⟩

/-- Lane `c` replaced. -/
def set (v : Lanes α) (c : Fin 8) (x : α) : Lanes α :=
  match c with
  | 0 => { v with l0 := x }
  | 1 => { v with l1 := x }
  | 2 => { v with l2 := x }
  | 3 => { v with l3 := x }
  | 4 => { v with l4 := x }
  | 5 => { v with l5 := x }
  | 6 => { v with l6 := x }
  | 7 => { v with l7 := x }

end Lanes

end Sys2Proof
end

