-- ==== Sys2Proof/Config.lean ====
section
/-! DEFINITION. Config.lean: the parameters of 00_scope.md R10 and the free values of the model. -/

namespace Sys2Proof.Config

/-- The constant of the `ID` register, "R4DB" (R2, 10_state.md R31). -/
abbrev idValue : Word := 0x52344442#32

/-- `P_BUF`: bytes in each of TXBUF and RXBUF (R10). -/
abbrev bufBytes : Nat := 260

/-- `P_PAYLOAD_MAX`: the largest payload ENCODE accepts (R10). -/
abbrev payloadMax : Nat := 253

/-- `P_BC_MAX`: the largest accepted shape A byte count (R10). -/
abbrev byteCountMax : Nat := 252

/-- `P_SHAPE_B_LEN`: the length of a shape B frame (R10). -/
abbrev shapeBLen : Nat := 8

/-- `P_MA_NMIN` and `P_MA_NMAX`: the bounds of the moving-average window (R10). -/
abbrev maNMin : Nat := 3
/-- See `maNMin`. -/
abbrev maNMax : Nat := 15

/-- `SENTINEL`: "no valid reading" (R10, R12). -/
abbrev sentinel : Half := 0x8000#16

/-- Reset value of `TO_NORMAL` (R10, 10_state.md R39). -/
abbrev toNormalReset : Half := 500#16
/-- Reset value of `TO_SCAN` (R10, 10_state.md R40). -/
abbrev toScanReset : Half := 100#16
/-- Reset value of `GUARD` (R10, 10_state.md R41). -/
abbrev guardReset : Half := 5#16

/-- Initial value of every CRC (R10, 41_crc.md R181). -/
abbrev crcInit : Half := 0xFFFF#16
/-- The reflected CRC polynomial (R10, 41_crc.md R180). -/
abbrev crcPoly : Half := 0xA001#16

/-- Host byte address of `TXBUF[0]` (20_memory.md R91). -/
abbrev txBase : Nat := 0x400
/-- Host byte address of `RXBUF[0]` (20_memory.md R91). -/
abbrev rxBase : Nat := 0x600

/-- FREE VALUE (log 1): what the buffer byte at a host byte address reads as after the given Reset while
nothing has written it: "any value, one byte value per index, fixed until written" (93 U1). -/
opaque bufferByte : (powerOns : Nat) → (address : Nat) → Byte

end Sys2Proof.Config
end

