-- ==== Sys2Proof/Syntax.lean ====
section
/-! DEFINITION. Syntax.lean: the fifteen commands of 30_encoding.md R124, their operands (R121, R122) and the error
codes of a rejected command (60_exceptions.md R350). -/

namespace Sys2Proof

/-- The shape of a response (30_encoding.md R121): A is byte-count driven, B is eight bytes. -/
inductive Shape where
  | a
  | b
deriving DecidableEq, Repr

/-- The commands, one constructor per row of the opcode map (30_encoding.md R124). Lengths and the window size are
counts (R122), so they are numbers; `Instr.WellFormed` says when they fit their field. -/
inductive Instr where
  /-- 40_control.md R171. -/
  | nop
  /-- 41_crc.md R182. -/
  | crcInit
  /-- 41_crc.md R183: `b` = A8. -/
  | crcByte (b : Byte)
  /-- 41_crc.md R184: `n` = A16. -/
  | crcTxbuf (n : Nat)
  /-- 42_codec.md R200: `len` = A16, the payload length. -/
  | encode (len : Nat)
  /-- 42_codec.md R202. -/
  | txSend
  /-- 43_receive.md R232. -/
  | xact (shape : Shape) (scan : Bool)
  /-- 43_receive.md R231. -/
  | rxStart (shape : Shape) (scan : Bool)
  /-- 43_receive.md R233. -/
  | rxAbort
  /-- 42_codec.md R211: `len` = A16, the raw frame length. -/
  | decode (shape : Shape) (len : Nat)
  /-- 44_median.md R280. -/
  | medInit
  /-- 44_median.md R282. -/
  | medPush
  /-- 45_moving_average.md R310: `n` = A8, the window size. -/
  | maInit (n : Nat)
  /-- 45_moving_average.md R315. -/
  | maPush
  /-- 40_control.md R172. -/
  | softReset
deriving DecidableEq, Repr

/-- The error codes 1..8 of 60_exceptions.md R350 (0 is the reset value of the field; 9..255 are never recorded). -/
inductive ErrCode where
  | illegalOpcode
  | reservedField
  | txBusy
  | rxBusy
  | badLength
  | txEmpty
  | badWindow
  | notConfigured
deriving DecidableEq, Repr

end Sys2Proof
end

