-- ==== Sys2Proof/WellFormed.lean ====
section
/-! DEFINITION. WellFormed.lean: when a command's operands fit the fields of its word (30_encoding.md R120, R122).
The limits of the commands themselves (BAD_LENGTH, BAD_WINDOW) are no part of it: "Values above the command's limit are
rejected by the command's rule, not by the encoding". -/

namespace Sys2Proof

/-- `n` fits the 16-bit argument field A16 (R120). -/
def fitsA16 (n : Nat) : Bool := n < 2 ^ 16

/-- `n` fits the 8-bit argument field A8 (R120). -/
def fitsA8 (n : Nat) : Bool := n < 2 ^ 8

/-- Every count operand fits its field; the other operands fit by their types. -/
def Instr.WellFormed (i : Instr) : Bool :=
  match i with
  | .nop => true
  | .crcInit => true
  | .crcByte _ => true
  | .crcTxbuf n => fitsA16 n
  | .encode len => fitsA16 len
  | .txSend => true
  | .xact _ _ => true
  | .rxStart _ _ => true
  | .rxAbort => true
  | .decode _ len => fitsA16 len
  | .medInit => true
  | .medPush => true
  | .maInit n => fitsA8 n
  | .maPush => true
  | .softReset => true

end Sys2Proof
end

