-- ==== Sys2Proof/Decode.lean ====
section
/-! DEFINITION. Decode.lean: the command word's fields, its decoder (total, rejecting by error code) and its encoder
(30_encoding.md R120..R126). -/

namespace Sys2Proof

/-- Bits 7:0, the opcode (R120). -/
def opField (w : Word) : Byte := w.extractLsb' 0 8

/-- Bits 15:8, the 8-bit argument (R120). -/
def a8Field (w : Word) : Byte := w.extractLsb' 8 8

/-- Bits 31:16, the 16-bit argument (R120). -/
def a16Field (w : Word) : Half := w.extractLsb' 16 16

/-- Bit 8 of the word: SHAPE, 0 = A, 1 = B (R121). -/
def shapeField (w : Word) : Shape := if w.getLsbD 8 then .b else .a

/-- Bit 9 of the word: SCAN (R121). -/
def scanField (w : Word) : Bool := w.getLsbD 9

/-- Decoding step (2) of R126: the bits that `mask` requires to be 0, the opcode's own apart, are 0 (R123, R170). -/
def checkReserved (mask w : Word) (i : Instr) : Except ErrCode Instr :=
  if w &&& mask &&& 0xFFFFFF00#32 = 0#32 then .ok i else .error .reservedField

/-- The decoder, in the order of R126; opcodes and masks are those of R124. -/
def decode (w : Word) : Except ErrCode Instr :=
  match (opField w).toNat with
  | 0x00 => checkReserved 0xFFFFFFFF#32 w .nop
  | 0x01 => checkReserved 0xFFFFFFFF#32 w .crcInit
  | 0x02 => checkReserved 0xFFFF00FF#32 w (.crcByte (a8Field w))
  | 0x03 => checkReserved 0x0000FFFF#32 w (.crcTxbuf (a16Field w).toNat)
  | 0x10 => checkReserved 0x0000FFFF#32 w (.encode (a16Field w).toNat)
  | 0x11 => checkReserved 0xFFFFFFFF#32 w .txSend
  | 0x12 => checkReserved 0xFFFFFCFF#32 w (.xact (shapeField w) (scanField w))
  | 0x20 => checkReserved 0xFFFFFCFF#32 w (.rxStart (shapeField w) (scanField w))
  | 0x21 => checkReserved 0xFFFFFFFF#32 w .rxAbort
  | 0x22 => checkReserved 0x0000FEFF#32 w (.decode (shapeField w) (a16Field w).toNat)
  | 0x30 => checkReserved 0xFFFFFFFF#32 w .medInit
  | 0x31 => checkReserved 0xFFFFFFFF#32 w .medPush
  | 0x40 => checkReserved 0xFFFF00FF#32 w (.maInit (a8Field w).toNat)
  | 0x41 => checkReserved 0xFFFFFFFF#32 w .maPush
  | 0xFF => checkReserved 0xFFFFFFFF#32 w .softReset
  | _ => .error .illegalOpcode

/-- The opcode of each command (R124); also what `ERR.OP` records when the command is rejected (60_exceptions.md R351). -/
def Instr.opcode (i : Instr) : Byte :=
  match i with
  | .nop => 0x00#8
  | .crcInit => 0x01#8
  | .crcByte _ => 0x02#8
  | .crcTxbuf _ => 0x03#8
  | .encode _ => 0x10#8
  | .txSend => 0x11#8
  | .xact _ _ => 0x12#8
  | .rxStart _ _ => 0x20#8
  | .rxAbort => 0x21#8
  | .decode _ _ => 0x22#8
  | .medInit => 0x30#8
  | .medPush => 0x31#8
  | .maInit _ => 0x40#8
  | .maPush => 0x41#8
  | .softReset => 0xFF#8

/-- A8 of the receive commands: `shape | scan<<1` (43_receive.md R231, R232; 42_codec.md R211 with SCAN 0). -/
def shapeScanArg (shape : Shape) (scan : Bool) : Byte :=
  0#6 ++ BitVec.ofBool scan ++ BitVec.ofBool (shape == .b)

/-- The A8 field of a command's word (R122, R124). -/
def Instr.a8 (i : Instr) : Byte :=
  match i with
  | .crcByte b => b
  | .xact shape scan => shapeScanArg shape scan
  | .rxStart shape scan => shapeScanArg shape scan
  | .decode shape _ => shapeScanArg shape false
  | .maInit n => BitVec.ofNat 8 n
  | .nop | .crcInit | .crcTxbuf _ | .encode _ | .txSend | .rxAbort | .medInit | .medPush | .maPush | .softReset => 0#8

/-- The A16 field of a command's word (R122, R124). -/
def Instr.a16 (i : Instr) : Half :=
  match i with
  | .crcTxbuf n => BitVec.ofNat 16 n
  | .encode len => BitVec.ofNat 16 len
  | .decode _ len => BitVec.ofNat 16 len
  | .nop | .crcInit | .crcByte _ | .txSend | .xact _ _ | .rxStart _ _ | .rxAbort | .medInit | .medPush | .maInit _
  | .maPush | .softReset => 0#16

/-- The word of a well-formed command: A16 above A8 above OP (R120). -/
def encode (i : Instr) : Word := i.a16 ++ i.a8 ++ i.opcode

/-- The command that the low `nbits` bits of `w` stand for: a command is one 32-bit word (R120), every bit above
`nbits` being 0. -/
def commandWord (nbits w : Nat) : Word := BitVec.ofNat 32 (w % 2 ^ nbits)

/-- What the decoder reads from the word `w` of `nbits` bits; `none` where it rejects the word. -/
def decodeTableWord (nbits w : Nat) : Option Instr := (decode (commandWord nbits w)).toOption

end Sys2Proof
end

