-- ==== Sys2Proof/Machine/State.lean ====
section
/-! DEFINITION. State.lean: every piece of state of 10_state.md as plain data, the events of the agents (00_scope.md
R6), the reasons a step can stop, and the state after reset (10_state.md R64). -/

namespace Sys2Proof.Machine

/-- The states of the receive unit (10_state.md R34). -/
inductive RxState where
  | idle
  | waitAddress
  | waitHeader
  | waitBody
  | complete
  | timeout
  | framingError
  | crcError
deriving DecidableEq, Repr

/-- One sample: a timestamp and one value per lane (00_scope.md R15; 10_state.md R60). -/
structure Sample where
  ts : Word
  v : Lanes Half
deriving DecidableEq, Repr

/-- The transmitter: `TX_LEN`, `TX_POS`, `TX_BUSY` (10_state.md R42, R43, R60). -/
structure TxUnit where
  len : Len
  pos : Len
  busy : Bool
deriving DecidableEq, Repr

/-- The receive unit: `RX_STATE`, `RX_SHAPE`, `RX_SCAN`, `XACT_PEND` (10_state.md R33, R60), `RX_LEN`, `RX_EXPECT`,
`RX_CRC.CALC`, `RX_CRC.RECV`, `TIMER` (R44..R47). -/
structure RxUnit where
  state : RxState
  shape : Shape
  scan : Bool
  xactPend : Bool
  len : Len
  expect : Len
  crcCalc : Half
  crcRecv : Half
  timer : Half
deriving DecidableEq, Repr

/-- The median unit: `MED_TS_IN`, `MED_IN`, `MED_TS_OUT`, `MED_OUT` (10_state.md R48..R51), `MED_RING`, `MED_WARM`,
`MED_IDX` (R60; log 13 for the index type). -/
structure MedUnit where
  tsIn : Word
  inp : Lanes Half
  tsOut : Word
  out : Lanes Half
  ring : Vector Sample 3
  warm : Bool
  idx : Fin 3
deriving DecidableEq, Repr

/-- The moving-average unit: `MA_TS_IN`, `MA_IN`, `MA_TS_OUT`, `MA_OUT`, `MA_NUM`, `MA_DEN` (10_state.md R52, R53,
R55..R58), `MA_RING`, `MA_N`, `MA_WIDX`, `MA_SEEN`, `MA_TSV` (R54, R60; log 13 for the index type). -/
structure MaUnit where
  tsIn : Word
  inp : Lanes Half
  tsOut : Word
  out : Lanes Half
  num : Lanes (BitVec 32)
  den : Lanes (BitVec 5)
  ring : Vector Sample 15
  n : BitVec 4
  widx : Fin 15
  seen : BitVec 4
  tsv : Bool
deriving DecidableEq, Repr

/-- One atomic event of one agent (00_scope.md R6). -/
inductive AgentEvent where
  /-- The host writes `data` at the byte address `addr`. -/
  | hostWrite (addr : Addr) (data : Word)
  /-- The host reads the byte address `addr`. -/
  | hostRead (addr : Addr)
  /-- The line presents the received byte `b`. -/
  | rxByte (b : Byte)
  /-- The sink takes the byte on `tx_data`. -/
  | txAccept
  /-- One timer tick. -/
  | tick
  /-- Power-on or external reset. -/
  | reset
deriving DecidableEq, Repr

/-- What the host bus answered to the last host access (00_scope.md R9; 20_memory.md R96, R97). -/
inductive HostResp where
  /-- No host access has happened. -/
  | none
  /-- A write was performed. -/
  | written
  /-- A read returned `d`. -/
  | readData (d : Word)
  /-- A write was refused with a bus error. -/
  | writeError
  /-- A read was refused with a bus error; `d` is the data that comes with the error response. -/
  | readError (d : Word)
deriving DecidableEq, Repr

/-- The bytes of TXBUF and RXBUF that something has written, as (host byte address, byte) with strictly rising
addresses; an unlisted address holds no value of its own (log 1). -/
abbrev Memory := List Host.Cell

/-- The state of the block, and below it the model's own record of the world around it. -/
structure State where
  /-- `EVENT[3:0]` (10_state.md R35). -/
  event : BitVec 4
  /-- `IRQ_EN[3:0]` (R36). -/
  irqEn : BitVec 4
  /-- `ERR[15:0]` (R37). -/
  err : Half
  /-- `CRC` (R38). -/
  crc : Half
  /-- `TO_NORMAL` (R39). -/
  toNormal : Half
  /-- `TO_SCAN` (R40). -/
  toScan : Half
  /-- `GUARD` (R41). -/
  guard : Half
  /-- `GUARD_CNT` (R47, R60). -/
  guardCnt : Half
  tx : TxUnit
  rx : RxUnit
  med : MedUnit
  ma : MaUnit
  /-- TXBUF and RXBUF (R59). -/
  mem : Memory
  /-- The model's own: how many Reset events have happened (log 1, log 9). -/
  powerOns : Nat
  /-- The model's own: the events still to happen, the next one first (log 3). -/
  pending : List AgentEvent
  /-- The model's own: the host bus's last answer (log 8). -/
  hostResp : HostResp
  /-- The model's own: the bytes the sink has taken, the first one first (log 8). -/
  txLine : List Byte
deriving DecidableEq, Repr

/-- Why the model stops although the spec's machine does not report anything: neither happens in a run of the block. -/
inductive Fault where
  /-- Raised by a `txAccept` event that the list of events holds while `tx_valid` = 0: 42_codec.md R204 says it cannot
  happen. Safe (log 6). -/
  | txAcceptNotEnabled
  /-- Raised by a received byte whose place `RXBUF[RX_LEN]` lies beyond the buffer, in a state no run reaches
  (43_receive.md R235). Safe (log 7). -/
  | rxBufferOverrun
deriving DecidableEq, Repr

/-- Why the model has no meaning for a command: no command of the table is refused. -/
inductive Refusal where
  /-- Raised by an arm of `exec` that has no meaning yet; no arm is left so. Safe. -/
  | notModelled (mnemonic : String)
deriving DecidableEq, Repr

/-- The outcome of one step or one command. -/
abbrev Result := Host.Outcome State Fault Refusal

/-- A sample whose bits are all 0: what the model puts into the rings at reset, where the spec leaves them unspecified
(10_state.md R64; 93 U2 allows 0; log 2). -/
def Sample.zero : Sample := ⟨0#32, Lanes.fill 0#16⟩

/-- The machine right after `Reset` (10_state.md R64, 70_reset_and_hazards.md R390), nothing having happened around
it. -/
def State.reset : State where
  event := 0#4
  irqEn := 0#4
  err := 0#16
  crc := Config.crcInit
  toNormal := Config.toNormalReset
  toScan := Config.toScanReset
  guard := Config.guardReset
  guardCnt := 0#16
  tx := { len := 0#9, pos := 0#9, busy := false }
  rx :=
    { state := .idle, shape := .a, scan := false, xactPend := false, len := 0#9, expect := 0#9,
      crcCalc := 0#16, crcRecv := 0#16, timer := 0#16 }
  med :=
    { tsIn := 0#32, inp := Lanes.fill 0#16, tsOut := 0#32, out := Lanes.fill Config.sentinel,
      ring := Vector.replicate 3 Sample.zero, warm := false, idx := 0 }
  ma :=
    { tsIn := 0#32, inp := Lanes.fill 0#16, tsOut := 0#32, out := Lanes.fill Config.sentinel,
      num := Lanes.fill 0#32, den := Lanes.fill 0#5, ring := Vector.replicate 15 Sample.zero,
      n := 0#4, widx := 0, seen := 0#4, tsv := false }
  mem := []
  powerOns := 0
  pending := []
  hostResp := .none
  txLine := []

end Sys2Proof.Machine
end

