-- ==== Sys2Proof/Machine/Flags.lean ====
section
/-! DEFINITION. Flags.lean: the codes of states and errors, the EVENT bits, the STATUS, ERR, RX_CRC, TIMER and MA_STAT
views, and the output levels (10_state.md R33..R37, R46, R47, R54, R62, R63). -/

namespace Sys2Proof.Machine

/-- The code of a receive state in `STATUS[2:0]` (10_state.md R34). -/
def RxState.code (r : RxState) : BitVec 3 :=
  match r with
  | .idle => 0#3
  | .waitAddress => 1#3
  | .waitHeader => 2#3
  | .waitBody => 3#3
  | .complete => 4#3
  | .timeout => 5#3
  | .framingError => 6#3
  | .crcError => 7#3

/-- The waiting states (00_scope.md R15, 10_state.md R34). -/
def RxState.waiting (r : RxState) : Bool :=
  match r with
  | .waitAddress | .waitHeader | .waitBody => true
  | .idle | .complete | .timeout | .framingError | .crcError => false

/-- The terminal states (00_scope.md R15, 10_state.md R34). -/
def RxState.terminal (r : RxState) : Bool :=
  match r with
  | .complete | .timeout | .framingError | .crcError => true
  | .idle | .waitAddress | .waitHeader | .waitBody => false

/-- The number of an error in `ERR.CODE` (60_exceptions.md R350). -/
def errNumber (e : ErrCode) : Byte :=
  match e with
  | .illegalOpcode => 1#8
  | .reservedField => 2#8
  | .txBusy => 3#8
  | .rxBusy => 4#8
  | .badLength => 5#8
  | .txEmpty => 6#8
  | .badWindow => 7#8
  | .notConfigured => 8#8

/-- `EVENT.RX_DONE` (10_state.md R35). -/
def evRxDone : BitVec 4 := 1#4
/-- `EVENT.TX_DONE` (R35). -/
def evTxDone : BitVec 4 := 2#4
/-- `EVENT.CMD_ERR` (R35). -/
def evCmdErr : BitVec 4 := 4#4
/-- `EVENT.RX_DROP` (R35). -/
def evRxDrop : BitVec 4 := 8#4

/-- An EVENT bit set; "a rule that sets a bit already 1 leaves it 1" (R35). -/
def State.setEvent (s : State) (bit : BitVec 4) : State := { s with event := s.event ||| bit }

/-- The level of the interrupt output (10_state.md R63, 60_exceptions.md R358). -/
def State.irq (s : State) : Bool := s.event &&& s.irqEn != 0#4

/-- `STATUS.GUARD_ACTIVE` (10_state.md R33). -/
def State.guardActive (s : State) : Bool := s.guardCnt != 0#16

/-- The output `tx_valid` (10_state.md R63). -/
def State.txValid (s : State) : Bool := s.tx.busy && s.guardCnt == 0#16

/-- The `RX_SHAPE` bit: 0 = shape A, 1 = shape B (10_state.md R33). -/
def shapeBit (sh : Shape) : BitVec 1 :=
  match sh with
  | .a => 0#1
  | .b => 1#1

/-- The word a read of STATUS returns (10_state.md R33). -/
def State.statusWord (s : State) : Word :=
  0#20 ++ BitVec.ofBool s.irq ++ BitVec.ofNat 2 s.med.idx.val ++ BitVec.ofBool s.med.warm ++
    BitVec.ofBool s.rx.xactPend ++ BitVec.ofBool s.guardActive ++ BitVec.ofBool s.tx.busy ++ BitVec.ofBool s.rx.scan ++
    shapeBit s.rx.shape ++ s.rx.state.code

/-- `MA_STAT.STEADY` (10_state.md R54). -/
def State.maSteady (s : State) : Bool := s.ma.n != 0#4 && s.ma.seen == s.ma.n

/-- The word a read of MA_STAT returns (10_state.md R54). -/
def State.maStatWord (s : State) : Word :=
  0#18 ++ BitVec.ofBool s.maSteady ++ BitVec.ofBool s.ma.tsv ++ s.ma.seen ++ BitVec.ofNat 4 s.ma.widx.val ++ s.ma.n

/-- The word a read of RX_CRC returns: RECV above CALC (10_state.md R46). -/
def State.rxCrcWord (s : State) : Word := s.rx.crcRecv ++ s.rx.crcCalc

/-- The word a read of TIMER returns: GUARD_CNT above TIMER (10_state.md R47). -/
def State.timerWord (s : State) : Word := s.guardCnt ++ s.rx.timer

end Sys2Proof.Machine
end

