-- ==== Sys2Proof/Machine/Memory.lean ====
section
/-! DEFINITION. Memory.lean: the cells of TXBUF and RXBUF in one canonical form, and reading and writing one buffer
byte (10_state.md R59, 20_memory.md R93). -/

namespace Sys2Proof.Machine

/-- `a` is the host byte address of a byte of TXBUF or of RXBUF (20_memory.md R91). -/
abbrev bufferAddress (a : Nat) : Prop :=
  (Config.txBase ≤ a ∧ a < Config.txBase + Config.bufBytes) ∨ (Config.rxBase ≤ a ∧ a < Config.rxBase + Config.bufBytes)

/-- The canonical form: addresses strictly rising, every one of them a buffer byte's. No entry equals what an unlisted
address holds, since that is no value at all (log 1). -/
abbrev Memory.wf (m : Memory) : Prop :=
  List.Pairwise (fun c d => c.1 < d.1) m ∧ ∀ c ∈ m, bufferAddress c.1

/-- What the cell at `a` holds; an unlisted address holds no value (log 1). -/
def Memory.read (m : Memory) (a : Nat) : Option Byte :=
  match m with
  | [] => none
  | (b, v) :: rest => if a = b then some v else Memory.read rest a

/-- The cell at `a` set to `v`, the canonical form kept. -/
def Memory.write (m : Memory) (a : Nat) (v : Byte) : Memory :=
  match m with
  | [] => [(a, v)]
  | (b, w) :: rest =>
    if a < b then (a, v) :: (b, w) :: rest
    else if a = b then (a, v) :: rest
    else (b, w) :: Memory.write rest a v

/-- The byte at the host byte address `a`: the one last written, else the free value (93 U1, U3; log 1). -/
def State.byteAt (s : State) (a : Nat) : Byte :=
  (Memory.read s.mem a).getD (Config.bufferByte s.powerOns a)

/-- The byte at the host byte address `a` set to `v`. -/
def State.setByte (s : State) (a : Nat) (v : Byte) : State :=
  { s with mem := Memory.write s.mem a v }

/-- The host byte address of `TXBUF[i]` (20_memory.md R93). -/
def txAddr (i : Nat) : Nat := Config.txBase + i

/-- The host byte address of `RXBUF[i]` (20_memory.md R93). -/
def rxAddr (i : Nat) : Nat := Config.rxBase + i

/-- `TXBUF[i]` (00_scope.md R11). -/
def State.txByte (s : State) (i : Nat) : Byte := s.byteAt (txAddr i)

/-- `RXBUF[i]` (00_scope.md R11). -/
def State.rxByte (s : State) (i : Nat) : Byte := s.byteAt (rxAddr i)

/-- The word at the host byte address `a` of a buffer: the lowest byte least significant (20_memory.md R93). -/
def State.wordAt (s : State) (a : Nat) : Word :=
  s.byteAt (a + 3) ++ s.byteAt (a + 2) ++ s.byteAt (a + 1) ++ s.byteAt a

/-- The word at the host byte address `a` of a buffer set to `d` (20_memory.md R93). -/
def State.setWord (s : State) (a : Nat) (d : Word) : State :=
  (((s.setByte a (d.extractLsb' 0 8)).setByte (a + 1) (d.extractLsb' 8 8)).setByte (a + 2)
    (d.extractLsb' 16 8)).setByte (a + 3) (d.extractLsb' 24 8)

end Sys2Proof.Machine
end

