-- ==== Sys2Proof/Machine/Operands.lean ====
section
/-! DEFINITION. Operands.lean: what the commands work on besides their words: the frame bytes in the buffers, the
sample registers and the timeout registers (30_encoding.md R122, 20_memory.md R108). -/

namespace Sys2Proof.Machine

/-- `TXBUF[0..n-1]`. -/
def State.txBytes (s : State) (n : Nat) : List Byte := (List.range n).map s.txByte

/-- `RXBUF[0..n-1]`. -/
def State.rxBytes (s : State) (n : Nat) : List Byte := (List.range n).map s.rxByte

/-- The byte on `tx_data`, meaningful only while `tx_valid` = 1 (10_state.md R63, 93 U20). -/
def State.txData (s : State) : Option Byte := if s.txValid then some (s.txByte s.tx.pos.toNat) else none

/-- The sample of MED_PUSH: `MED_TS_IN` and `MED_IN[0..7]` (44_median.md R282). -/
def State.medSample (s : State) : Sample := ⟨s.med.tsIn, s.med.inp⟩

/-- The sample of MA_PUSH: `MA_TS_IN` and `MA_IN[0..7]` (45_moving_average.md R315). -/
def State.maSample (s : State) : Sample := ⟨s.ma.tsIn, s.ma.inp⟩

/-- The timeout a waiting state is entered with: `TO_NORMAL` or `TO_SCAN`, read at the moment of the load
(43_receive.md R240). -/
def State.timeoutFor (s : State) (scan : Bool) : Half := if scan then s.toScan else s.toNormal

/-- The number of bytes a shape fixes before any byte is read: 8 for shape B, 0 = not known for shape A (43_receive.md
R230). -/
def armExpect (shape : Shape) : Len :=
  match shape with
  | .a => 0#9
  | .b => BitVec.ofNat 9 Config.shapeBLen

/-- The two CRC bytes of a frame as one value, low byte first (20_memory.md R101, 42_codec.md R210). -/
def crcOfBytes (lo hi : Byte) : Half := hi ++ lo

end Sys2Proof.Machine
end

