-- ==== Sys2Proof/Machine/Ops.lean ====
section
/-! DEFINITION. Ops.lean: the shared operations: rejecting a command (what the block has in place of taking an
exception) and acknowledging an event (in place of the return from one), the CRC function, the arm, the end and the
frame check of a receive, and the soft reset. -/

namespace Sys2Proof.Machine

/-- `raise CmdError(code)` for a command word whose opcode byte is `op`: "nothing else: every write the command's rule
would make is discarded" (60_exceptions.md R351, R352). -/
def State.rejectCommand (s : State) (op : Byte) (code : ErrCode) : State :=
  { s with err := op ++ errNumber code, event := s.event ||| evCmdErr }

/-- The host's write of `d` to EVENT: `EVENT <- EVENT & ~d[3:0]` (10_state.md R35, 60_exceptions.md R363). -/
def State.ackEvents (s : State) (d : Word) : State :=
  { s with event := s.event &&& ~~~(d.extractLsb' 0 4) }

/-- One of the eight shifts of `crc_step` (41_crc.md R180). -/
def crcShift (c : Half) : Half := if c.getLsbD 0 then (c >>> 1) ^^^ Config.crcPoly else c >>> 1

/-- `k` shifts in a row. -/
def crcShifts (k : Nat) (c : Half) : Half :=
  match k with
  | 0 => c
  | k + 1 => crcShifts k (crcShift c)

/-- `crc_step(c, b)` (41_crc.md R180). -/
def crcStep (c : Half) (b : Byte) : Half := crcShifts 8 (c ^^^ b.setWidth 16)

/-- A CRC continued over a byte sequence (41_crc.md R184, R185). -/
def crcFold (c : Half) (bytes : List Byte) : Half := bytes.foldl crcStep c

/-- `crc16(seq)` (41_crc.md R181). -/
def crc16 (bytes : List Byte) : Half := crcFold Config.crcInit bytes

/-- A receive is waiting or an XACT is pending: the condition of RX_BUSY (60_exceptions.md R350) and of the gate on
RXBUF (20_memory.md R98). -/
def State.rxBusy (s : State) : Bool := s.rx.state.waiting || s.rx.xactPend

/-- `rx_arm(shape, scan)` (43_receive.md R230). -/
def State.rxArm (s : State) (shape : Shape) (scan : Bool) : State :=
  { s with
    rx :=
      { s.rx with
        shape := shape, scan := scan, state := .waitAddress, len := 0#9, expect := armExpect shape,
        crcCalc := 0#16, crcRecv := 0#16, timer := s.timeoutFor scan } }

/-- `rx_finish(state)`: the entry into a terminal state; only COMPLETE loads the guard (43_receive.md R239, R245). -/
def State.rxFinish (s : State) (st : RxState) : State :=
  { s with
    rx := { s.rx with state := st, timer := 0#16 }
    event := s.event ||| evRxDone
    guardCnt := if st = .complete then s.guard else s.guardCnt }

/-- The outcome of a frame check: the receive state it returns and what it writes into RX_EXPECT and RX_CRC. -/
structure FrameVerdict where
  state : RxState
  expect : Len
  crcCalc : Half
  crcRecv : Half
deriving DecidableEq, Repr

/-- The total length a shape gives to the frame in RXBUF of which `len` bytes are there: `none` where shape A's byte
count is not there or above its limit (42_codec.md R210, 30_encoding.md R135). -/
def State.frameLength (s : State) (shape : Shape) (len : Nat) : Option Nat :=
  match shape with
  | .b => some Config.shapeBLen
  | .a =>
    if len < 3 then none
    else if Config.byteCountMax < (s.rxByte 2).toNat then none
    else some ((s.rxByte 2).toNat + 5)

/-- `frame_check(shape, L)` (42_codec.md R210). -/
def State.frameCheck (s : State) (shape : Shape) (len : Nat) : FrameVerdict :=
  match s.frameLength shape len with
  | none => { state := .framingError, expect := 0#9, crcCalc := 0#16, crcRecv := 0#16 }
  | some exp =>
    if len ≠ exp then { state := .framingError, expect := BitVec.ofNat 9 exp, crcCalc := 0#16, crcRecv := 0#16 }
    else
      let computed := crc16 (s.rxBytes (exp - 2))
      let carried := crcOfBytes (s.rxByte (exp - 2)) (s.rxByte (exp - 1))
      { state := if computed = carried then .complete else .crcError, expect := BitVec.ofNat 9 exp,
        crcCalc := computed, crcRecv := carried }

/-- A frame check's writes to RX_EXPECT and RX_CRC (42_codec.md R210). -/
def State.noteVerdict (s : State) (v : FrameVerdict) : State :=
  { s with rx := { s.rx with expect := v.expect, crcCalc := v.crcCalc, crcRecv := v.crcRecv } }

/-- Every state element at its "after SOFT_RESET" value: the rings and the buffers keep their contents (10_state.md
R64, 40_control.md R172, 70_reset_and_hazards.md R393). -/
def State.softReset (s : State) : State :=
  { State.reset with
    med := { State.reset.med with ring := s.med.ring }
    ma := { State.reset.ma with ring := s.ma.ring }
    mem := s.mem
    powerOns := s.powerOns
    pending := s.pending
    hostResp := s.hostResp
    txLine := s.txLine }

/-- Every state element at its "after Reset" value: the buffers are unspecified anew (10_state.md R64,
70_reset_and_hazards.md R390; log 9). -/
def State.powerOnReset (s : State) : State :=
  { State.reset with
    powerOns := s.powerOns + 1
    pending := s.pending
    hostResp := s.hostResp
    txLine := s.txLine }

end Sys2Proof.Machine
end

