-- ==== Sys2Proof/Machine/Codec.lean ====
section
/-! DEFINITION. Codec.lean: the commands ENCODE, TX_SEND and DECODE (42_codec.md R200, R202, R211). -/

namespace Sys2Proof.Machine

/-- ENCODE's writes once its checks have passed: the CRC of address, function and payload goes behind them, low byte
first, and into `CRC` (42_codec.md R200). -/
def State.appendCrc (s : State) (len : Nat) : State :=
  let c := crc16 (s.txBytes (len + 2))
  let t := (s.setByte (txAddr (len + 2)) (c.extractLsb' 0 8)).setByte (txAddr (len + 3)) (c.extractLsb' 8 8)
  { t with tx := { s.tx with len := BitVec.ofNat 9 (len + 4), pos := 0#9 }, crc := c }

/-- ENCODE (42_codec.md R200). -/
def execEncode (len : Nat) (s : State) : Result :=
  if s.tx.busy then .next (s.rejectCommand (Instr.encode len).opcode .txBusy)
  else if Config.payloadMax < len then .next (s.rejectCommand (Instr.encode len).opcode .badLength)
  else .next (s.appendCrc len)

/-- TX_SEND (42_codec.md R202). -/
def execTxSend (s : State) : Result :=
  if s.tx.busy then .next (s.rejectCommand Instr.txSend.opcode .txBusy)
  else if s.tx.len = 0#9 then .next (s.rejectCommand Instr.txSend.opcode .txEmpty)
  else .next { s with tx := { s.tx with pos := 0#9, busy := true } }

/-- DECODE's writes once its checks have passed (42_codec.md R211): TIMER, RX_SCAN and the guard stay. -/
def State.decodeFrame (s : State) (shape : Shape) (len : Nat) : State :=
  let v := s.frameCheck shape len
  { s with
    rx :=
      { s.rx with
        shape := shape, len := BitVec.ofNat 9 len, state := v.state, expect := v.expect, crcCalc := v.crcCalc,
        crcRecv := v.crcRecv }
    event := s.event ||| evRxDone }

/-- DECODE (42_codec.md R211). -/
def execDecode (shape : Shape) (len : Nat) (s : State) : Result :=
  if s.rxBusy then .next (s.rejectCommand (Instr.decode shape len).opcode .rxBusy)
  else if Config.bufBytes < len then .next (s.rejectCommand (Instr.decode shape len).opcode .badLength)
  else .next (s.decodeFrame shape len)

end Sys2Proof.Machine
end

