-- ==== Sys2Proof/Machine/Control.lean ====
section
/-! DEFINITION. Control.lean: the commands NOP and SOFT_RESET (40_control.md R171, R172). -/

namespace Sys2Proof.Machine

/-- NOP: no operation; a previous error stays in ERR (40_control.md R171). -/
def execNop (s : State) : Result := .next s

/-- SOFT_RESET (40_control.md R172). -/
def execSoftReset (s : State) : Result := .next s.softReset

end Sys2Proof.Machine
end

