-- ==== Sys2Proof/Machine/Crc.lean ====
section
/-! DEFINITION. Crc.lean: the commands CRC_INIT, CRC_BYTE and CRC_TXBUF (41_crc.md R182..R184). -/

namespace Sys2Proof.Machine

/-- CRC_INIT: start a new CRC (41_crc.md R182). -/
def execCrcInit (s : State) : Result := .next { s with crc := Config.crcInit }

/-- CRC_BYTE: add one byte to the CRC (41_crc.md R183). -/
def execCrcByte (b : Byte) (s : State) : Result := .next { s with crc := crcStep s.crc b }

/-- CRC_TXBUF: add the first `n` bytes of TXBUF to the CRC, from its present value (41_crc.md R184). -/
def execCrcTxbuf (n : Nat) (s : State) : Result :=
  if Config.bufBytes < n then .next (s.rejectCommand (Instr.crcTxbuf n).opcode .badLength)
  else .next { s with crc := crcFold s.crc (s.txBytes n) }

end Sys2Proof.Machine
end

