-- ==== Sys2Proof/Machine/Median.lean ====
section
/-! DEFINITION. Median.lean: the median of three, one lane's output, and the commands MED_INIT and MED_PUSH
(44_median.md R280..R285). -/

namespace Sys2Proof.Machine

/-- `med3(a, b, c)`, the values compared as `s16` (44_median.md R283). -/
def med3 (a b c : Half) : Half :=
  if a.toInt ≤ b.toInt then
    if b.toInt ≤ c.toInt then b
    else if a.toInt ≤ c.toInt then c
    else a
  else
    if a.toInt ≤ c.toInt then a
    else if b.toInt ≤ c.toInt then c
    else b

/-- `lane_out(vo, vm, vn)`: oldest, middle, newest (44_median.md R284). -/
def laneOut (vo vm vn : Half) : Half :=
  if vn = Config.sentinel then Config.sentinel
  else if vm = Config.sentinel ∨ vo = Config.sentinel then vn
  else med3 vo vm vn

/-- A ring slot as MED_INIT and MA_INIT write it: timestamp 0, every value the sentinel (44_median.md R280,
45_moving_average.md R310). -/
def Sample.cleared : Sample := ⟨0#32, Lanes.fill Config.sentinel⟩

/-- MED_INIT (44_median.md R280). -/
def execMedInit (s : State) : Result :=
  .next
    { s with
      med :=
        { s.med with
          warm := false, idx := 0, ring := Vector.replicate 3 Sample.cleared, tsOut := 0#32,
          out := Lanes.fill Config.sentinel } }

/-- The ring index `k` places after `i` (44_median.md R282: "mod 3"). -/
def medAfter (i : Fin 3) (k : Nat) : Fin 3 := Fin.ofNat 3 (i.val + k)

/-- The unit after the sample is seeded (R281, when the flag is clear), the index advanced and the sample stored
(44_median.md R282). -/
def MedUnit.store (u : MedUnit) (x : Sample) : MedUnit :=
  let seeded := if u.warm then u.ring else Vector.replicate 3 x
  let i := medAfter u.idx 1
  { u with ring := seeded.set i x, warm := true, idx := i }

/-- The outputs computed from the stored window: the slot of `idx` is the newest, the one two after it the middle, the
one after it the oldest (44_median.md R282, R284, R285). -/
def MedUnit.emit (u : MedUnit) : MedUnit :=
  let newest := u.ring[u.idx]
  let middle := u.ring[medAfter u.idx 2]
  let oldest := u.ring[medAfter u.idx 1]
  { u with
    out := Lanes.ofFn fun c => laneOut (oldest.v.get c) (middle.v.get c) (newest.v.get c)
    tsOut := middle.ts }

/-- MED_PUSH (44_median.md R282). -/
def execMedPush (s : State) : Result := .next { s with med := (s.med.store s.medSample).emit }

end Sys2Proof.Machine
end

