-- ==== Sys2Proof/Machine/MovingAverage.lean ====
section
/-! DEFINITION. MovingAverage.lean: the weighted mean of a window and the commands MA_INIT and MA_PUSH
(45_moving_average.md R310..R320). -/

namespace Sys2Proof.Machine

/-- The window sizes MA_INIT accepts: odd, 3 to 15 (45_moving_average.md R310, R311). -/
def validWindow (n : Nat) : Bool := Config.maNMin ≤ n && n ≤ Config.maNMax && n % 2 == 1

/-- MA_INIT (45_moving_average.md R310). -/
def execMaInit (n : Nat) (s : State) : Result :=
  if validWindow n then
    .next
      { s with
        ma :=
          { s.ma with
            n := BitVec.ofNat 4 n, widx := 0, seen := 0#4, tsv := false,
            ring := Vector.replicate 15 Sample.cleared, tsOut := 0#32, out := Lanes.fill Config.sentinel,
            num := Lanes.fill 0#32, den := Lanes.fill 0#5 } }
  else .next (s.rejectCommand (Instr.maInit n).opcode .badWindow)

/-- `round_half_away(num, den)` (45_moving_average.md R320). -/
def roundHalfAway (num : Int) (den : Nat) : Int :=
  let q : Int := ((2 * num.natAbs + den) / (2 * den) : Nat)
  if 0 ≤ num then q else -q

/-- The doubled weight of the slot of age `k`: 2 in warm-up; in steady state 1 for the two edges and 2 between them
(45_moving_average.md R318, R319). -/
def maWeight (n seen k : Nat) : Nat :=
  if seen < n then 2 else if k = 0 ∨ k = n - 1 then 1 else 2

/-- How many slots, from age 0 on, a window counts: the seen ones in warm-up, all `n` in steady state
(45_moving_average.md R318). -/
def maAges (n seen : Nat) : Nat := if seen < n then seen else n

/-- The numerator of a lane whose value of age `k` is `x k`: the sentinel is left out (45_moving_average.md R318). -/
def maNumerator (n seen : Nat) (x : Nat → Half) : Int :=
  ((List.range (maAges n seen)).map fun k =>
    if x k = Config.sentinel then 0 else (maWeight n seen k : Int) * (x k).toInt).sum

/-- The denominator of a lane whose value of age `k` is `x k` (45_moving_average.md R318). -/
def maDenominator (n seen : Nat) (x : Nat → Half) : Nat :=
  ((List.range (maAges n seen)).map fun k => if x k = Config.sentinel then 0 else maWeight n seen k).sum

/-- The output of a lane: rounded, or the sentinel where every sample was unavailable (45_moving_average.md R318). -/
def maRounded (num : Int) (den : Nat) : Half :=
  if den = 0 then Config.sentinel else BitVec.ofInt 16 (roundHalfAway num den)

/-- The ring index of the slot of age `k`, the newest sample being at `w`: `(w - k) mod n` for `k < n`
(45_moving_average.md R316; log 14). -/
def maSlotIndex (n w k : Nat) : Fin 15 := Fin.ofNat 15 ((w + n - k) % n)

/-- The unit after the sample is stored, the write index advanced and the seen-count raised, capped at the window
(45_moving_average.md R315). -/
def MaUnit.store (u : MaUnit) (x : Sample) : MaUnit :=
  { u with
    ring := u.ring.set u.widx x
    widx := Fin.ofNat 15 ((u.widx.val + 1) % u.n.toNat)
    seen := BitVec.ofNat 4 (min (u.seen.toNat + 1) u.n.toNat) }

/-- The outputs computed from the stored window, the newest sample being at `w` (45_moving_average.md R315, R317,
R318). -/
def MaUnit.emit (u : MaUnit) (w : Fin 15) : MaUnit :=
  let n := u.n.toNat
  let seen := u.seen.toNat
  let h := (n - 1) / 2
  let slot : Nat → Sample := fun k => u.ring[maSlotIndex n w.val k]
  let num : Fin 8 → Int := fun c => maNumerator n seen fun k => (slot k).v.get c
  let den : Fin 8 → Nat := fun c => maDenominator n seen fun k => (slot k).v.get c
  { u with
    tsOut := (slot h).ts
    tsv := decide (h < seen)
    out := Lanes.ofFn fun c => maRounded (num c) (den c)
    num := Lanes.ofFn fun c => BitVec.ofInt 32 (num c)
    den := Lanes.ofFn fun c => BitVec.ofNat 5 (den c) }

/-- MA_PUSH (45_moving_average.md R315). -/
def execMaPush (s : State) : Result :=
  if s.ma.n = 0#4 then .next (s.rejectCommand Instr.maPush.opcode .notConfigured)
  else .next { s with ma := (s.ma.store s.maSample).emit s.ma.widx }

end Sys2Proof.Machine
end

