-- ==== Sys2Proof/Machine/Receive.lean ====
section
/-! DEFINITION. Receive.lean: the commands XACT, RX_START and RX_ABORT (43_receive.md R231..R233). -/

namespace Sys2Proof.Machine

/-- XACT: send the frame, the arm coming with the last byte's TxAccept (43_receive.md R232). -/
def execXact (shape : Shape) (scan : Bool) (s : State) : Result :=
  if s.tx.busy then .next (s.rejectCommand (Instr.xact shape scan).opcode .txBusy)
  else if s.rxBusy then .next (s.rejectCommand (Instr.xact shape scan).opcode .rxBusy)
  else if s.tx.len = 0#9 then .next (s.rejectCommand (Instr.xact shape scan).opcode .txEmpty)
  else
    .next
      { s with
        rx := { s.rx with shape := shape, scan := scan, state := .idle, xactPend := true }
        tx := { s.tx with pos := 0#9, busy := true } }

/-- RX_START: arm the receiver now (43_receive.md R231). -/
def execRxStart (shape : Shape) (scan : Bool) (s : State) : Result :=
  if s.rxBusy then .next (s.rejectCommand (Instr.rxStart shape scan).opcode .rxBusy)
  else .next (s.rxArm shape scan)

/-- RX_ABORT: stop a receive and cancel a pending arm; the transmission and RX_DONE are left alone (43_receive.md
R233). -/
def execRxAbort (s : State) : Result :=
  if s.rx.state.waiting then .next { s with rx := { s.rx with state := .idle, timer := 0#16, xactPend := false } }
  else .next { s with rx := { s.rx with xactPend := false } }

end Sys2Proof.Machine
end

