-- ==== Sys2Proof/Machine/Dispatch.lean ====
section
/-! DEFINITION. Dispatch.lean: every command to its meaning (40_control.md R170). -/

namespace Sys2Proof.Machine

def exec (i : Instr) (s : State) : Host.Outcome State Fault Refusal :=
  match i with
  | .nop => Sys2Proof.Machine.execNop s
  | .crcInit => Sys2Proof.Machine.execCrcInit s
  | .crcByte b => Sys2Proof.Machine.execCrcByte b s
  | .crcTxbuf n => Sys2Proof.Machine.execCrcTxbuf n s
  | .encode len => Sys2Proof.Machine.execEncode len s
  | .txSend => Sys2Proof.Machine.execTxSend s
  | .xact shape scan => Sys2Proof.Machine.execXact shape scan s
  | .rxStart shape scan => Sys2Proof.Machine.execRxStart shape scan s
  | .rxAbort => Sys2Proof.Machine.execRxAbort s
  | .decode shape len => Sys2Proof.Machine.execDecode shape len s
  | .medInit => Sys2Proof.Machine.execMedInit s
  | .medPush => Sys2Proof.Machine.execMedPush s
  | .maInit n => Sys2Proof.Machine.execMaInit n s
  | .maPush => Sys2Proof.Machine.execMaPush s
  | .softReset => Sys2Proof.Machine.execSoftReset s

end Sys2Proof.Machine
end

