-- ==== Sys2Proof/Machine/HostBus.lean ====
section
/-! DEFINITION. HostBus.lean: the host register space: its map, what a read returns, what a write does, and when an
access is refused (20_memory.md R90..R98; 10_state.md R31..R59, R65, R66). Addresses are offsets in the block's own
window (log 11). -/

namespace Sys2Proof.Machine

/-- The registers and buffer words of the map (20_memory.md R91). -/
inductive Reg where
  | id
  | cmd
  | status
  | event
  | irqEn
  | err
  | crc
  | toNormal
  | toScan
  | guard
  | txLen
  | txPos
  | rxLen
  | rxExpect
  | rxCrc
  | timer
  | medTsIn
  | medTsOut
  | medIn (c : Fin 8)
  | medOut (c : Fin 8)
  | maTsIn
  | maTsOut
  | maStat
  | maIn (c : Fin 8)
  | maOut (c : Fin 8)
  | maNum (c : Fin 8)
  | maDen (c : Fin 8)
  | txBuf (k : Fin 65)
  | rxBuf (k : Fin 65)
deriving DecidableEq, Repr

/-- The byte address of each register and buffer word (20_memory.md R91, R93). -/
def Reg.address (r : Reg) : Nat :=
  match r with
  | .id => 0x000
  | .cmd => 0x004
  | .status => 0x008
  | .event => 0x00C
  | .irqEn => 0x010
  | .err => 0x014
  | .crc => 0x018
  | .toNormal => 0x01C
  | .toScan => 0x020
  | .guard => 0x024
  | .txLen => 0x028
  | .txPos => 0x02C
  | .rxLen => 0x030
  | .rxExpect => 0x034
  | .rxCrc => 0x038
  | .timer => 0x03C
  | .medTsIn => 0x040
  | .medTsOut => 0x044
  | .medIn c => 0x050 + 4 * c.val
  | .medOut c => 0x070 + 4 * c.val
  | .maTsIn => 0x090
  | .maTsOut => 0x094
  | .maStat => 0x098
  | .maIn c => 0x0A0 + 4 * c.val
  | .maOut c => 0x0C0 + 4 * c.val
  | .maNum c => 0x0E0 + 4 * c.val
  | .maDen c => 0x100 + 4 * c.val
  | .txBuf k => Config.txBase + 4 * k.val
  | .rxBuf k => Config.rxBase + 4 * k.val

/-- The lane `c` of the word `base + 4c`. -/
def laneOf (base n : Nat) : Fin 8 := Fin.ofNat 8 ((n - base) / 4)

/-- The buffer word `k` of the address `base + 4k`. -/
def bufWordOf (base n : Nat) : Fin 65 := Fin.ofNat 65 ((n - base) / 4)

/-- The register or buffer word at an aligned byte address; `none` where nothing is mapped (20_memory.md R91). -/
def regAtAligned (n : Nat) : Option Reg :=
  if n = 0x000 then some .id
  else if n = 0x004 then some .cmd
  else if n = 0x008 then some .status
  else if n = 0x00C then some .event
  else if n = 0x010 then some .irqEn
  else if n = 0x014 then some .err
  else if n = 0x018 then some .crc
  else if n = 0x01C then some .toNormal
  else if n = 0x020 then some .toScan
  else if n = 0x024 then some .guard
  else if n = 0x028 then some .txLen
  else if n = 0x02C then some .txPos
  else if n = 0x030 then some .rxLen
  else if n = 0x034 then some .rxExpect
  else if n = 0x038 then some .rxCrc
  else if n = 0x03C then some .timer
  else if n = 0x040 then some .medTsIn
  else if n = 0x044 then some .medTsOut
  else if n < 0x050 then none
  else if n < 0x070 then some (.medIn (laneOf 0x050 n))
  else if n < 0x090 then some (.medOut (laneOf 0x070 n))
  else if n = 0x090 then some .maTsIn
  else if n = 0x094 then some .maTsOut
  else if n = 0x098 then some .maStat
  else if n < 0x0A0 then none
  else if n < 0x0C0 then some (.maIn (laneOf 0x0A0 n))
  else if n < 0x0E0 then some (.maOut (laneOf 0x0C0 n))
  else if n < 0x100 then some (.maNum (laneOf 0x0E0 n))
  else if n < 0x120 then some (.maDen (laneOf 0x100 n))
  else if n < Config.txBase then none
  else if n < Config.txBase + Config.bufBytes then some (.txBuf (bufWordOf Config.txBase n))
  else if n < Config.rxBase then none
  else if n < Config.rxBase + Config.bufBytes then some (.rxBuf (bufWordOf Config.rxBase n))
  else none

/-- What a host byte address reaches; `none` = misaligned (20_memory.md R95) or unmapped (R91). -/
def regAt (a : Addr) : Option Reg := if a.toNat % 4 = 0 then regAtAligned a.toNat else none

/-- The word a host read of a register or buffer word returns: bits above the implemented ones are 0
(10_state.md R65, R66; 20_memory.md R97). -/
def State.readReg (s : State) (r : Reg) : Word :=
  match r with
  | .id => Config.idValue
  | .cmd => 0#32
  | .status => s.statusWord
  | .event => s.event.setWidth 32
  | .irqEn => s.irqEn.setWidth 32
  | .err => s.err.setWidth 32
  | .crc => s.crc.setWidth 32
  | .toNormal => s.toNormal.setWidth 32
  | .toScan => s.toScan.setWidth 32
  | .guard => s.guard.setWidth 32
  | .txLen => s.tx.len.setWidth 32
  | .txPos => s.tx.pos.setWidth 32
  | .rxLen => s.rx.len.setWidth 32
  | .rxExpect => s.rx.expect.setWidth 32
  | .rxCrc => s.rxCrcWord
  | .timer => s.timerWord
  | .medTsIn => s.med.tsIn
  | .medTsOut => s.med.tsOut
  | .medIn c => (s.med.inp.get c).setWidth 32
  | .medOut c => (s.med.out.get c).setWidth 32
  | .maTsIn => s.ma.tsIn
  | .maTsOut => s.ma.tsOut
  | .maStat => s.maStatWord
  | .maIn c => (s.ma.inp.get c).setWidth 32
  | .maOut c => (s.ma.out.get c).setWidth 32
  | .maNum c => s.ma.num.get c
  | .maDen c => (s.ma.den.get c).setWidth 32
  | .txBuf _ => s.wordAt r.address
  | .rxBuf _ => s.wordAt r.address

/-- The writes of an accepted host write to a register or buffer word, the issue of a command apart: RO registers and
unimplemented bits ignore it (10_state.md R65, R66; 20_memory.md R97). -/
def State.writeReg (s : State) (r : Reg) (d : Word) : State :=
  match r with
  | .event => s.ackEvents d
  | .irqEn => { s with irqEn := d.setWidth 4 }
  | .toNormal => { s with toNormal := d.setWidth 16 }
  | .toScan => { s with toScan := d.setWidth 16 }
  | .guard => { s with guard := d.setWidth 16 }
  | .medTsIn => { s with med := { s.med with tsIn := d } }
  | .medIn c => { s with med := { s.med with inp := s.med.inp.set c (d.setWidth 16) } }
  | .maTsIn => { s with ma := { s.ma with tsIn := d } }
  | .maIn c => { s with ma := { s.ma with inp := s.ma.inp.set c (d.setWidth 16) } }
  | .txBuf _ => s.setWord r.address d
  | .rxBuf _ => s.setWord r.address d
  | .id | .cmd | .status | .err | .crc | .txLen | .txPos | .rxLen | .rxExpect | .rxCrc | .timer | .medTsOut | .medOut _
  | .maTsOut | .maStat | .maOut _ | .maNum _ | .maDen _ => s

/-- A host write to this register is refused now: TXBUF while a transmission runs, RXBUF while a receive waits or an
XACT is pending (20_memory.md R98). -/
def State.writeGated (s : State) (r : Reg) : Bool :=
  match r with
  | .txBuf _ => s.tx.busy
  | .rxBuf _ => s.rxBusy
  | .id | .cmd | .status | .event | .irqEn | .err | .crc | .toNormal | .toScan | .guard | .txLen | .txPos | .rxLen
  | .rxExpect | .rxCrc | .timer | .medTsIn | .medTsOut | .medIn _ | .medOut _ | .maTsIn | .maTsOut | .maStat | .maIn _
  | .maOut _ | .maNum _ | .maDen _ => false

/-- What a host read gets: the register's word, or `none` for a bus error (20_memory.md R96, R97). -/
def State.busRead (s : State) (a : Addr) : Option Word := (regAt a).map s.readReg

/-- Where a host write goes: the register it reaches, or `none` for a bus error (20_memory.md R96, R98). -/
def State.busWriteTarget (s : State) (a : Addr) : Option Reg :=
  (regAt a).bind fun r => if s.writeGated r then none else some r

/-- The bus's answer noted for the host agent (00_scope.md R9; log 8). -/
def State.answer (s : State) (r : HostResp) : State := { s with hostResp := r }

end Sys2Proof.Machine
end

