-- ==== Sys2Proof/Machine/Events.lean ====
section
/-! DEFINITION. Events.lean: the atomic events of the five agents (00_scope.md R6, R7): host accesses and command
issue, received bytes, the sink's takes, ticks and Reset. -/

namespace Sys2Proof.Machine

/-- The issue of the command word `w` (40_control.md R170; 30_encoding.md R126; 60_exceptions.md R352). -/
def issueCommand (w : Word) (s : State) : Result :=
  match decode w with
  | .ok i => exec i s
  | .error code => .next (s.rejectCommand (opField w) code)

/-- `HostRead(addr)`: no side effect on any register; a refused read gives data 0 with the error response
(20_memory.md R96, R97; log 5). -/
def hostReadEvent (a : Addr) (s : State) : Result :=
  match s.busRead a with
  | some d => .next (s.answer (.readData d))
  | none => .next (s.answer (.readError 0#32))

/-- `HostWrite(addr, data)`: a refused write changes no state of the block; a write to CMD issues the command
(20_memory.md R96..R98, 40_control.md R170; log 5). -/
def hostWriteEvent (a : Addr) (d : Word) (s : State) : Result :=
  match s.busWriteTarget a with
  | none => .next (s.answer .writeError)
  | some .cmd => issueCommand d (s.answer .written)
  | some r => .next ((s.writeReg r d).answer .written)

/-- A received byte stored at `RXBUF[RX_LEN]` and counted (43_receive.md R235). -/
def State.storeReceived (s : State) (b : Byte) : State :=
  let t := s.setByte (rxAddr s.rx.len.toNat) b
  { t with rx := { s.rx with len := s.rx.len + 1#9 } }

/-- The byte just stored is the address (43_receive.md R236). -/
def State.afterAddress (s : State) : State :=
  { s with
    rx :=
      { s.rx with
        state := if s.rx.shape = .a then .waitHeader else .waitBody
        timer := s.timeoutFor s.rx.scan } }

/-- The byte just stored is the function or the byte count of a shape A frame (43_receive.md R237); a framing error
sets RX_CRC to 0 (10_state.md R46). -/
def State.afterHeader (s : State) : State :=
  if s.rx.len = 3#9 then
    if Config.byteCountMax < (s.rxByte 2).toNat then
      (s.noteVerdict { state := .framingError, expect := 0#9, crcCalc := 0#16, crcRecv := 0#16 }).rxFinish .framingError
    else
      { s with
        rx :=
          { s.rx with
            expect := BitVec.ofNat 9 ((s.rxByte 2).toNat + 5), state := .waitBody, timer := s.timeoutFor s.rx.scan } }
  else s

/-- The byte just stored belongs to the body (43_receive.md R238). -/
def State.afterBody (s : State) : State :=
  if s.rx.len = s.rx.expect then
    let v := s.frameCheck s.rx.shape s.rx.len.toNat
    (s.noteVerdict v).rxFinish v.state
  else s

/-- The rule of the receive state that the byte just stored arrived in (43_receive.md R235..R238). -/
def State.afterStored (s : State) : State :=
  match s.rx.state with
  | .waitAddress => s.afterAddress
  | .waitHeader => s.afterHeader
  | .waitBody => s.afterBody
  | .idle | .complete | .timeout | .framingError | .crcError => s

/-- `RxByte(b)` (43_receive.md R234, R235; log 7 for a place beyond the buffer). -/
def rxByteEvent (b : Byte) (s : State) : Result :=
  if s.rx.state.waiting then
    if s.rx.len.toNat < Config.bufBytes then .next (s.storeReceived b).afterStored
    else .fault .rxBufferOverrun
  else .next (s.setEvent evRxDrop)

/-- The end of a transmission: TX_BUSY falls, TX_DONE is set, a pending XACT arms the receiver (42_codec.md R204). -/
def State.endTransmission (s : State) : State :=
  let t := { s with tx := { s.tx with busy := false }, event := s.event ||| evTxDone }
  if s.rx.xactPend then { t with rx := { t.rx with xactPend := false } }.rxArm s.rx.shape s.rx.scan
  else t

/-- `TxAccept`: the byte on `tx_data` goes to the line; enabled only while `tx_valid` = 1 (42_codec.md R204, R205;
log 6). -/
def txAcceptEvent (s : State) : Result :=
  if s.txValid then
    let t := { s with tx := { s.tx with pos := s.tx.pos + 1#9 }, txLine := s.txLine ++ [s.txByte s.tx.pos.toNat] }
    .next (if t.tx.pos = t.tx.len then t.endTransmission else t)
  else .fault .txAcceptNotEnabled

/-- A tick's effect on the timeout counter (43_receive.md R241, R242). -/
def State.tickTimer (s : State) : State :=
  if s.rx.state.waiting then
    if s.rx.timer.toNat ≤ 1 then s.rxFinish .timeout
    else { s with rx := { s.rx with timer := s.rx.timer - 1#16 } }
  else s

/-- A tick's effect on the guard counter (43_receive.md R246). -/
def State.tickGuard (s : State) : State :=
  if s.guardCnt = 0#16 then s else { s with guardCnt := s.guardCnt - 1#16 }

/-- `Tick`: both counters in the same event (43_receive.md R241, R242, R246). -/
def tickEvent (s : State) : Result := .next s.tickTimer.tickGuard

/-- `Reset` (70_reset_and_hazards.md R390). -/
def resetEvent (s : State) : Result := .next s.powerOnReset

/-- One event of one agent (00_scope.md R6, R7). -/
def performEvent (e : AgentEvent) (s : State) : Result :=
  match e with
  | .hostWrite a d => hostWriteEvent a d s
  | .hostRead a => hostReadEvent a s
  | .rxByte b => rxByteEvent b s
  | .txAccept => txAcceptEvent s
  | .tick => tickEvent s
  | .reset => resetEvent s

/-- The next event taken from the list and performed; with no event left the block waits (log 3, log 4). -/
def nextEvent (s : State) : Result :=
  match s.pending with
  | [] => .next s
  | e :: rest => performEvent e { s with pending := rest }

/-- The event that a command word arrives by: a HostWrite to CMD (40_control.md R170). -/
def commandEvent (w : Word) : AgentEvent := .hostWrite 0x004#12 w

end Sys2Proof.Machine
end

