-- ==== Sys2Proof/Machine/Step.lean ====
section
/-! DEFINITION. Step.lean: one step of the machine is one event (00_scope.md R6, R7). -/

namespace Sys2Proof.Machine

/-- One step: the next event of the agents, atomically. -/
def step (s : State) : Host.Outcome State Fault Refusal := nextEvent s

/-- `s` with the command word `w` of `nbits` bits put where the next step takes it from: the head of the list of events
(log 4). -/
def State.withFetchWord (s : State) (nbits w : Nat) : State :=
  { s with pending := commandEvent (commandWord nbits w) :: s.pending }

end Sys2Proof.Machine
end

