-- ==== Sys2Proof/Safety.lean ====
section
/-! DEFINITION. Safety.lean: the terms the statements use: which check rejects a command (60_exceptions.md R360),
runs of several events, frames and sample windows as lists, and what holds of every state a run of the block reaches. -/

namespace Sys2Proof

open Sys2Proof.Machine

/-- The first of a command's own checks that fails, in the order of 60_exceptions.md R360; `none` = accepted. -/
def commandError (i : Instr) (s : State) : Option ErrCode :=
  match i with
  | .nop | .crcInit | .crcByte _ | .rxAbort | .medInit | .medPush | .softReset => none
  | .crcTxbuf n => if 260 < n then some .badLength else none
  | .encode len => if s.tx.busy then some .txBusy else if 253 < len then some .badLength else none
  | .txSend => if s.tx.busy then some .txBusy else if s.tx.len = 0#9 then some .txEmpty else none
  | .xact _ _ =>
    if s.tx.busy then some .txBusy
    else if s.rx.state.waiting ∨ s.rx.xactPend then some .rxBusy
    else if s.tx.len = 0#9 then some .txEmpty
    else none
  | .rxStart _ _ => if s.rx.state.waiting ∨ s.rx.xactPend then some .rxBusy else none
  | .decode _ len =>
    if s.rx.state.waiting ∨ s.rx.xactPend then some .rxBusy else if 260 < len then some .badLength else none
  | .maInit n => if n ∈ [3, 5, 7, 9, 11, 13, 15] then none else some .badWindow
  | .maPush => if s.ma.n = 0#4 then some .notConfigured else none

/-- The command words with opcode `op` that carry a 1 in a reserved bit are exactly those of which `bits` holds
(30_encoding.md R123). -/
def reservedExactlyWhen (op : Byte) (bits : Word → Prop) : Prop :=
  ∀ w : Word, opField w = op → (decode w = .error .reservedField ↔ bits w)

/-- The state after the events `es`, in that order, before whatever was already pending. -/
def runEvents (es : List AgentEvent) (s : State) : Host.Outcome State Fault Refusal :=
  Host.Core.run Sys2Proof.core es.length { s with pending := es ++ s.pending }

/-- The events by which the host issues these commands, in that order (40_control.md R170). -/
def commandEvents (is : List Instr) : List AgentEvent := is.map fun i => commandEvent (encode i)

/-- The aligned, mapped byte addresses of the host register space (20_memory.md R91, R95). -/
def mappedAddress (n : Nat) : Prop :=
  n % 4 = 0 ∧
  (n < 0x048 ∨ (0x050 ≤ n ∧ n < 0x09C) ∨ (0x0A0 ≤ n ∧ n < 0x120) ∨ (0x400 ≤ n ∧ n < 0x504) ∨ (0x600 ≤ n ∧ n < 0x704))

/-- A byte sequence whose length is the one its shape gives it (30_encoding.md R132, R134, R135). -/
def fitsShape (shape : Shape) (f : List Byte) : Prop :=
  match shape with
  | .b => f.length = 8
  | .a => ∃ bc : Byte, f[2]? = some bc ∧ bc.toNat ≤ 252 ∧ f.length = bc.toNat + 5

/-- The CRC of all bytes of a frame but its last two (42_codec.md R210). -/
def computedCrc (f : List Byte) : Half := crc16 (f.take (f.length - 2))

/-- The CRC a frame carries in its last two bytes, low byte first (20_memory.md R101, 42_codec.md R210). -/
def carriedCrc (f : List Byte) : Half := crcOfBytes (f.getD (f.length - 2) 0#8) (f.getD (f.length - 1) 0#8)

/-- `x` put into MED_TS_IN and MED_IN and pushed (44_median.md R282). -/
def medPushOf (x : Sample) (s : State) : Result :=
  exec .medPush { s with med := { s.med with tsIn := x.ts, inp := x.v } }

/-- `x` put into MA_TS_IN and MA_IN and pushed (45_moving_average.md R315). -/
def maPushOf (x : Sample) (s : State) : Result :=
  exec .maPush { s with ma := { s.ma with tsIn := x.ts, inp := x.v } }

/-- The samples pushed one after the other, the first of the list first. -/
def maPushAll (xs : List Sample) (s : State) : Result :=
  match xs with
  | [] => .next s
  | x :: rest =>
    match maPushOf x s with
    | .next t => maPushAll rest t
    | .fault f => .fault f
    | .refused r => .refused r

/-- The value a sample value adds to a sum: nothing when it is the sentinel (45_moving_average.md R318). -/
def sampleValue (x : Half) : Int := if x = Config.sentinel then 0 else x.toInt

/-- 1 for a reading, 0 for the sentinel (45_moving_average.md R318). -/
def sampleCount (x : Half) : Int := if x = Config.sentinel then 0 else 1

/-- Twice the sum of `f` over the window, less one half weight for each edge: the doubled trapezoidal sum of a full
window, newest first (45_moving_average.md R318, R319). -/
def trapezoid (f : Half → Int) (w : List Half) : Int :=
  2 * (w.map f).sum - f (w.headD 0#16) - f (w.getLastD 0#16)

/-- The doubled weighted sum over the values of one lane since MA_INIT, newest first: the plain mean's while fewer than
`n` are there, the trapezoidal one's of the last `n` from then on (45_moving_average.md R318). -/
def windowSum (n : Nat) (f : Half → Int) (newestFirst : List Half) : Int :=
  if newestFirst.length < n then 2 * (newestFirst.map f).sum else trapezoid f (newestFirst.take n)

/-- The transmitter and the memory in a run: TX_LEN is 0 or 4..257, TX_POS at most TX_LEN and below it while a
transmission runs (10_state.md R42, 42_codec.md R203), the cells canonical, the error code one of R350's. -/
structure TransmitterInv (s : State) : Prop where
  memory : Memory.wf s.mem
  lenRange : s.tx.len = 0#9 ∨ (4 ≤ s.tx.len.toNat ∧ s.tx.len.toNat ≤ 257)
  posLe : s.tx.pos.toNat ≤ s.tx.len.toNat
  busyPos : s.tx.busy = true → s.tx.pos.toNat < s.tx.len.toNat
  errCode : (s.err.extractLsb' 0 8).toNat ≤ 8

/-- The receive unit in a run, each clause from the rule it names. -/
structure ReceiverInv (s : State) : Prop where
  /-- A pending XACT's transmission runs and the receiver is idle (42_codec.md R203, 43_receive.md R232). -/
  pending : s.rx.xactPend = true → s.tx.busy = true ∧ s.rx.state = .idle
  /-- `TIMER` = 0 whenever the receiver is not waiting (43_receive.md R242). -/
  timerIdle : s.rx.state.waiting = false → s.rx.timer = 0#16
  /-- 10_state.md R44. -/
  lenRange : s.rx.len.toNat ≤ 260
  /-- 10_state.md R45. -/
  expectRange : s.rx.expect = 0#9 ∨ (5 ≤ s.rx.expect.toNat ∧ s.rx.expect.toNat ≤ 257)
  /-- 10_state.md R46. -/
  crcCleared :
    s.rx.state.waiting = true ∨ s.rx.state = .timeout ∨ s.rx.state = .framingError →
      s.rx.crcCalc = 0#16 ∧ s.rx.crcRecv = 0#16
  /-- 43_receive.md R230. -/
  address : s.rx.state = .waitAddress → s.rx.len = 0#9 ∧ s.rx.expect = armExpect s.rx.shape
  /-- 43_receive.md R236, R237. -/
  header : s.rx.state = .waitHeader → s.rx.shape = .a ∧ (s.rx.len = 1#9 ∨ s.rx.len = 2#9) ∧ s.rx.expect = 0#9
  /-- 43_receive.md R236..R238. -/
  body :
    s.rx.state = .waitBody →
      s.rx.len.toNat < s.rx.expect.toNat ∧
      (s.rx.shape = .b → 1 ≤ s.rx.len.toNat ∧ s.rx.expect = 8#9) ∧
      (s.rx.shape = .a → 3 ≤ s.rx.len.toNat ∧ s.rx.expect.toNat = (s.rxByte 2).toNat + 5)
  /-- 42_codec.md R214. -/
  complete : s.rx.state = .complete → s.rx.len = s.rx.expect ∧ s.rx.crcCalc = s.rx.crcRecv
  /-- 42_codec.md R210. -/
  crcError : s.rx.state = .crcError → s.rx.len = s.rx.expect ∧ s.rx.crcCalc ≠ s.rx.crcRecv

/-- The moving-average unit in a run, each clause from the rule it names. -/
structure MovingAverageInv (s : State) : Prop where
  /-- 45_moving_average.md R311; 10_state.md R54. -/
  window : s.ma.n = 0#4 ∨ validWindow s.ma.n.toNat = true
  /-- 10_state.md R54. -/
  seenLe : s.ma.seen.toNat ≤ s.ma.n.toNat
  /-- 10_state.md R54. -/
  indexRange : s.ma.widx.val < s.ma.n.toNat ∨ (s.ma.n = 0#4 ∧ s.ma.widx = 0)
  /-- In warm-up the next slot is the first one not seen (45_moving_average.md R316). -/
  warmIndex : s.ma.seen.toNat < s.ma.n.toNat → s.ma.widx.val = s.ma.seen.toNat
  /-- "the other slots hold the values MA_INIT wrote" (45_moving_average.md R316). -/
  unseen : s.ma.n ≠ 0#4 → ∀ j : Fin 15, s.ma.seen.toNat ≤ j.val → s.ma.ring[j] = Sample.cleared
  /-- 45_moving_average.md R317. -/
  tsValid : s.ma.tsv = true ↔ (s.ma.n.toNat - 1) / 2 < s.ma.seen.toNat
  /-- 45_moving_average.md R317. -/
  tsBefore : s.ma.tsv = false → s.ma.tsOut = 0#32
  /-- 10_state.md R58, 45_moving_average.md R321, R322. -/
  outputs : ∀ c : Fin 8,
    (s.ma.den.get c).toNat ≤ 28 ∧
    ((s.ma.num.get c).toInt.natAbs ≤ 32767 * (s.ma.den.get c).toNat) ∧
    (s.ma.den.get c = 0#5 ↔ s.ma.out.get c = Config.sentinel)

end Sys2Proof
end

