-- ==== Sys2Proof/Certificates/Slice0/Obligations.lean ====
section
/-! DEFINITION. Obligations.lean: what the model is claimed to do, rule by rule of the spec; OBLIGATIONS.json lists
each statement with the rule it rests on. Where a statement speaks of `pending` (the list of the agents' events, log 3),
of `hostResp` or `txLine` (what the host and the sink have seen, log 8), of `powerOns` (log 9) or of a fault (logs 6, 7),
those are the model's own, not the spec's. -/

open Sys2Proof Sys2Proof.Machine

/-! ## The command word -/

/-- 30_encoding.md R120, R122, R124: a well-formed command is read back from its word, operands and all. -/
def Obligations.DecodeInvertsEncode : Prop :=
  ∀ i : Instr, i.WellFormed = true → decode (encode i) = .ok i

/-- 30_encoding.md R120..R124: a word the decoder accepts is the word of the command it gives; no two words are one
command and no bit of an accepted word is dropped. -/
def Obligations.EncodeInvertsDecode : Prop :=
  ∀ (w : Word) (i : Instr), decode w = .ok i → i.WellFormed = true ∧ encode i = w

/-- 30_encoding.md R124: "a word `w` is command X when `w & mask == match`": the match and mask columns of the map. -/
def Obligations.MatchAndMaskDecideTheCommand : Prop :=
  ∀ row ∈ ([(0x00#8, 0xFFFFFFFF#32), (0x01#8, 0xFFFFFFFF#32), (0x02#8, 0xFFFF00FF#32), (0x03#8, 0x0000FFFF#32),
      (0x10#8, 0x0000FFFF#32), (0x11#8, 0xFFFFFFFF#32), (0x12#8, 0xFFFFFCFF#32), (0x20#8, 0xFFFFFCFF#32),
      (0x21#8, 0xFFFFFFFF#32), (0x22#8, 0x0000FEFF#32), (0x30#8, 0xFFFFFFFF#32), (0x31#8, 0xFFFFFFFF#32),
      (0x40#8, 0xFFFF00FF#32), (0x41#8, 0xFFFFFFFF#32), (0xFF#8, 0xFFFFFFFF#32)] : List (Byte × Word)),
    ∀ w : Word, w &&& row.2 = row.1.setWidth 32 ↔ ∃ i : Instr, decode w = .ok i ∧ i.opcode = row.1

/-- 30_encoding.md R125 and R123, with 60_exceptions.md R351 and R352: a word whose opcode is not assigned is rejected
with ILLEGAL_OPCODE whatever its other bits, and a word of an assigned opcode that is no command is rejected with
RESERVED_FIELD; the rejection records the opcode byte and the code and changes nothing else of the block. That the event
is taken off `pending` (log 3) and that the bus answers `written` (log 8) is the model's. -/
def Obligations.UndecodableWordsAreRejected : Prop :=
  ∀ (s : State) (w : Word) (rest : List AgentEvent),
    s.pending = .hostWrite 0x004#12 w :: rest →
    ((opField w ∉ [0x00#8, 0x01#8, 0x02#8, 0x03#8, 0x10#8, 0x11#8, 0x12#8, 0x20#8, 0x21#8, 0x22#8, 0x30#8, 0x31#8,
        0x40#8, 0x41#8, 0xFF#8] →
      step s =
        .next { s with pending := rest, hostResp := .written, err := opField w ++ 1#8, event := s.event ||| 4#4 }) ∧
     (opField w ∈ [0x00#8, 0x01#8, 0x02#8, 0x03#8, 0x10#8, 0x11#8, 0x12#8, 0x20#8, 0x21#8, 0x22#8, 0x30#8, 0x31#8,
        0x40#8, 0x41#8, 0xFF#8] → (∀ i : Instr, i.WellFormed = true → encode i ≠ w) →
      step s =
        .next { s with pending := rest, hostResp := .written, err := opField w ++ 2#8, event := s.event ||| 4#4 }))

/-- 30_encoding.md R127: the words of some command lines, written out there. -/
def Obligations.WrittenOutWordsDecode : Prop :=
  decode 0x00000000#32 = .ok .nop ∧
  decode 0x00000102#32 = .ok (.crcByte 0x01#8) ∧
  decode 0x00060003#32 = .ok (.crcTxbuf 6) ∧
  decode 0x00040010#32 = .ok (.encode 4) ∧
  decode 0x00000212#32 = .ok (.xact .a true) ∧
  decode 0x00000120#32 = .ok (.rxStart .b false) ∧
  decode 0x00080122#32 = .ok (.decode .b 8) ∧
  decode 0x00000031#32 = .ok .medPush ∧
  decode 0x00000540#32 = .ok (.maInit 5) ∧
  decode 0x000000FF#32 = .ok .softReset

/-- 40_control.md R170: a host write of a command's word to CMD executes the command in the same event; the step takes
the event off the list (log 3) and notes the bus's answer (log 8), which is the model's, and adds nothing else. The same of
a word put there by `withFetchWord` (log 4). -/
def Obligations.StepRunsTheDecodedCommand : Prop :=
  (∀ (s : State) (w : Word) (i : Instr) (rest : List AgentEvent),
    s.pending = .hostWrite 0x004#12 w :: rest → decode w = .ok i →
      step s = exec i { s with pending := rest, hostResp := .written }) ∧
  (∀ (s : State) (i : Instr), i.WellFormed = true →
    step (s.withFetchWord 32 (encode i).toNat) = exec i { s with hostResp := .written })

/-! ## Acceptance and rejection -/

/-- 60_exceptions.md R352 and R360: a command whose first failing check is `e` changes ERR and EVENT.CMD_ERR and nothing
else. -/
def Obligations.RejectedCommandChangesOnlyErr : Prop :=
  ∀ (i : Instr) (s : State) (e : ErrCode),
    commandError i s = some e →
      exec i s = .next { s with err := i.opcode ++ errNumber e, event := s.event ||| 4#4 }

/-- 10_state.md R37 and 60_exceptions.md R352: a command that passes its checks leaves ERR and EVENT.CMD_ERR as they
were, SOFT_RESET apart, which clears both. -/
def Obligations.AcceptedCommandKeepsErr : Prop :=
  ∀ (i : Instr) (s : State),
    commandError i s = none →
      ∃ t : State, exec i s = .next t ∧
        (i ≠ .softReset → t.err = s.err ∧ t.event &&& 4#4 = s.event &&& 4#4) ∧
        (i = .softReset → t.err = 0#16 ∧ t.event = 0#4)

/-- 40_control.md R174: CRC_INIT, CRC_BYTE, CRC_TXBUF, MED_INIT, MED_PUSH, MA_INIT, MA_PUSH and NOP never read or write
transmitter or receiver state: with any other transmitter, receiver and guard they do the same to all the rest. -/
def Obligations.CrcAndFilterCommandsIgnoreTheWireSide : Prop :=
  ∀ (i : Instr) (s t : State) (tx : TxUnit) (rx : RxUnit) (g : Half),
    (i = .nop ∨ i = .crcInit ∨ (∃ b, i = .crcByte b) ∨ (∃ n, i = .crcTxbuf n) ∨ i = .medInit ∨ i = .medPush ∨
      (∃ n, i = .maInit n) ∨ i = .maPush) →
    exec i s = .next t →
      t.tx = s.tx ∧ t.rx = s.rx ∧ t.guardCnt = s.guardCnt ∧
      exec i { s with tx := tx, rx := rx, guardCnt := g } = .next { t with tx := tx, rx := rx, guardCnt := g }

/-! ## Block control and reset -/

/-- 40_control.md R171: the word 0 is NOP, NOP changes nothing, and its reserved bits are 31:8. -/
def Obligations.NopChangesNothing : Prop :=
  (∀ s : State, exec .nop s = .next s) ∧
  decode 0x00000000#32 = .ok .nop ∧
  reservedExactlyWhen 0x00#8 fun w => w.extractLsb' 8 24 ≠ 0#24

/-- 40_control.md R172 with the "after SOFT_RESET" column of 10_state.md R64: every element at its value, the rings and
the buffers kept, the outputs low; its word and its reserved bits 31:8. -/
def Obligations.SoftResetRestoresTheTable : Prop :=
  (∀ s : State, ∃ t : State, exec .softReset s = .next t ∧
    t.rx = ⟨.idle, .a, false, false, 0#9, 0#9, 0#16, 0#16, 0#16⟩ ∧ t.tx = ⟨0#9, 0#9, false⟩ ∧
    t.event = 0#4 ∧ t.irqEn = 0#4 ∧ t.err = 0#16 ∧ t.crc = 0xFFFF#16 ∧ t.toNormal = 500#16 ∧ t.toScan = 100#16 ∧
    t.guard = 5#16 ∧ t.guardCnt = 0#16 ∧
    t.med = ⟨0#32, Lanes.fill 0#16, 0#32, Lanes.fill 0x8000#16, s.med.ring, false, 0⟩ ∧
    t.ma = ⟨0#32, Lanes.fill 0#16, 0#32, Lanes.fill 0x8000#16, Lanes.fill 0#32, Lanes.fill 0#5, s.ma.ring, 0#4, 0,
      0#4, false⟩ ∧
    (∀ a : Nat, t.byteAt a = s.byteAt a) ∧ t.irq = false ∧ t.txValid = false) ∧
  decode 0x000000FF#32 = .ok .softReset ∧
  reservedExactlyWhen 0xFF#8 fun w => w.extractLsb' 8 24 ≠ 0#24

/-- 70_reset_and_hazards.md R390 with the "after Reset" column of 10_state.md R64: the Reset event from any state, for
every element whose value the table gives; MED_RING, MA_RING, TXBUF and RXBUF are unspecified there and not mentioned
(log 1, log 2, log 9). -/
def Obligations.ResetEventRestoresTheTable : Prop :=
  ∀ (s : State) (rest : List AgentEvent), s.pending = .reset :: rest → ∃ t : State, step s = .next t ∧
    t.rx = ⟨.idle, .a, false, false, 0#9, 0#9, 0#16, 0#16, 0#16⟩ ∧ t.tx = ⟨0#9, 0#9, false⟩ ∧
    t.event = 0#4 ∧ t.irqEn = 0#4 ∧ t.err = 0#16 ∧ t.crc = 0xFFFF#16 ∧ t.toNormal = 500#16 ∧ t.toScan = 100#16 ∧
    t.guard = 5#16 ∧ t.guardCnt = 0#16 ∧
    t.med.tsIn = 0#32 ∧ t.med.inp = Lanes.fill 0#16 ∧ t.med.tsOut = 0#32 ∧ t.med.out = Lanes.fill 0x8000#16 ∧
    t.med.warm = false ∧ t.med.idx = 0 ∧
    t.ma.tsIn = 0#32 ∧ t.ma.inp = Lanes.fill 0#16 ∧ t.ma.tsOut = 0#32 ∧ t.ma.out = Lanes.fill 0x8000#16 ∧
    t.ma.num = Lanes.fill 0#32 ∧ t.ma.den = Lanes.fill 0#5 ∧ t.ma.n = 0#4 ∧ t.ma.widx = 0 ∧ t.ma.seen = 0#4 ∧
    t.ma.tsv = false ∧ t.irq = false ∧ t.txValid = false ∧ t.pending = rest

/-- 10_state.md R64: what the host reads after Reset at every register's address, the buffers apart. -/
def Obligations.ResetRegisterReads : Prop :=
  State.reset.busRead 0x000#12 = some 0x52344442#32 ∧ State.reset.busRead 0x004#12 = some 0#32 ∧
  State.reset.busRead 0x008#12 = some 0#32 ∧ State.reset.busRead 0x00C#12 = some 0#32 ∧
  State.reset.busRead 0x010#12 = some 0#32 ∧ State.reset.busRead 0x014#12 = some 0#32 ∧
  State.reset.busRead 0x018#12 = some 0xFFFF#32 ∧ State.reset.busRead 0x01C#12 = some 500#32 ∧
  State.reset.busRead 0x020#12 = some 100#32 ∧ State.reset.busRead 0x024#12 = some 5#32 ∧
  (∀ a ∈ [0x028#12, 0x02C#12, 0x030#12, 0x034#12, 0x038#12, 0x03C#12, 0x040#12, 0x044#12, 0x090#12, 0x094#12, 0x098#12],
    State.reset.busRead a = some 0#32) ∧
  (∀ c : Fin 8,
    State.reset.busRead (BitVec.ofNat 12 (0x050 + 4 * c.val)) = some 0#32 ∧
    State.reset.busRead (BitVec.ofNat 12 (0x070 + 4 * c.val)) = some 0x8000#32 ∧
    State.reset.busRead (BitVec.ofNat 12 (0x0A0 + 4 * c.val)) = some 0#32 ∧
    State.reset.busRead (BitVec.ofNat 12 (0x0C0 + 4 * c.val)) = some 0x8000#32 ∧
    State.reset.busRead (BitVec.ofNat 12 (0x0E0 + 4 * c.val)) = some 0#32 ∧
    State.reset.busRead (BitVec.ofNat 12 (0x100 + 4 * c.val)) = some 0#32)

/-- 44_median.md R286 and 70_reset_and_hazards.md R394: ring contents that no push has seeded or cleared never show.
Take two states that differ at most in a median ring that is not seeded yet and in a moving-average ring that is not
configured yet, the one or the other or both. After any step, whatever its event, they again differ at most so: a ring
that has been written in the meantime is the same in both, and all the rest of the two states is the same. The
conclusion is the premise again, so this holds along a whole run. (What the rings hold at reset is the model's, log 2.) -/
def Obligations.UnwrittenRingsNeverShow : Prop :=
  ∀ (s t : State) (r3 : Vector Sample 3) (r15 : Vector Sample 15),
    (s.med.warm = true → r3 = s.med.ring) → (s.ma.n ≠ 0#4 → r15 = s.ma.ring) → step s = .next t →
      ∃ (q3 : Vector Sample 3) (q15 : Vector Sample 15),
        (t.med.warm = true → q3 = t.med.ring) ∧ (t.ma.n ≠ 0#4 → q15 = t.ma.ring) ∧
        step { s with med := { s.med with ring := r3 }, ma := { s.ma with ring := r15 } } =
          .next { t with med := { t.med with ring := q3 }, ma := { t.ma with ring := q15 } }

/-! ## CRC unit -/

/-- 41_crc.md R180: the update of a CRC by one byte, as its pseudocode has it, and its example. -/
def Obligations.CrcStepIsEightShifts : Prop :=
  (∀ (c : Half) (b : Byte),
    crcStep c b =
      (fun x : Half => if x &&& 1#16 = 1#16 then (x >>> 1) ^^^ 0xA001#16 else x >>> 1)^[8] (c ^^^ b.setWidth 16)) ∧
  crcStep 0xFFFF#16 0x01#8 = 0x807E#16

/-- 41_crc.md R182, R183, R184: the three commands' words, their results and what each leaves alone (everything else),
the BAD_LENGTH of CRC_TXBUF and the reserved bits. -/
def Obligations.CrcCommandResults : Prop :=
  (∀ s : State, exec .crcInit s = .next { s with crc := 0xFFFF#16 }) ∧
  (∀ (b : Byte) (s : State), exec (.crcByte b) s = .next { s with crc := crcStep s.crc b }) ∧
  (∀ (n : Nat) (s : State), n ≤ 260 →
    exec (.crcTxbuf n) s = .next { s with crc := ((List.range n).map s.txByte).foldl crcStep s.crc }) ∧
  (∀ (n : Nat) (s : State), 260 < n →
    exec (.crcTxbuf n) s = .next { s with err := 0x0305#16, event := s.event ||| 4#4 }) ∧
  decode 0x00000001#32 = .ok .crcInit ∧
  (∀ b : Byte, decode (0#16 ++ b ++ 0x02#8) = .ok (.crcByte b)) ∧
  (∀ n : Half, decode (n ++ 0#8 ++ 0x03#8) = .ok (.crcTxbuf n.toNat)) ∧
  reservedExactlyWhen 0x01#8 (fun w => w.extractLsb' 8 24 ≠ 0#24) ∧
  reservedExactlyWhen 0x02#8 (fun w => w.extractLsb' 16 16 ≠ 0#16) ∧
  reservedExactlyWhen 0x03#8 (fun w => w.extractLsb' 8 8 ≠ 0#8)

/-- 41_crc.md R181, R185: the CRC of a sequence is the running CRC of CRC_INIT and one CRC_BYTE per byte, which change
nothing else of the block; it can be computed in pieces; the residue of a sequence with its own CRC behind it, low byte
first, is zero; a change of one byte, so of any single bit, changes it. (`hostResp` is the model's, log 8.) -/
def Obligations.CrcOfAByteSequence : Prop :=
  (∀ (bytes : List Byte) (s : State),
    runEvents (commandEvents (.crcInit :: bytes.map .crcByte)) s =
      .next { s with crc := crc16 bytes, hostResp := .written }) ∧
  (∀ as bs : List Byte, crc16 (as ++ bs) = bs.foldl crcStep (crc16 as)) ∧
  (∀ bytes : List Byte,
    crc16 (bytes ++ [(crc16 bytes).extractLsb' 0 8, (crc16 bytes).extractLsb' 8 8]) = 0#16) ∧
  (∀ (before after : List Byte) (b b' : Byte),
    b ≠ b' → crc16 (before ++ b :: after) ≠ crc16 (before ++ b' :: after))

/-! ## Frame encoder and transmitter -/

/-- 42_codec.md R200: ENCODE appends the CRC, low byte first, sets TX_LEN, TX_POS and CRC, changes no other buffer byte
and nothing else; TX_BUSY is checked before BAD_LENGTH; its words, and the reserved bits 15:8. -/
def Obligations.EncodeAppendsTheCrc : Prop :=
  (∀ (s : State) (len : Nat), s.tx.busy = false → len ≤ 253 →
    ∃ t : State, exec (.encode len) s = .next t ∧
      t.byteAt (0x400 + (len + 2)) = (crc16 (s.txBytes (len + 2))).extractLsb' 0 8 ∧
      t.byteAt (0x400 + (len + 3)) = (crc16 (s.txBytes (len + 2))).extractLsb' 8 8 ∧
      (∀ a : Nat, a ≠ 0x400 + (len + 2) → a ≠ 0x400 + (len + 3) → t.byteAt a = s.byteAt a) ∧
      t = { s with
        mem := t.mem, tx := { len := BitVec.ofNat 9 (len + 4), pos := 0#9, busy := false },
        crc := crc16 (s.txBytes (len + 2)) }) ∧
  (∀ (s : State) (len : Nat), s.tx.busy = true →
    exec (.encode len) s = .next { s with err := 0x1003#16, event := s.event ||| 4#4 }) ∧
  (∀ (s : State) (len : Nat), s.tx.busy = false → 253 < len →
    exec (.encode len) s = .next { s with err := 0x1005#16, event := s.event ||| 4#4 }) ∧
  (∀ len : Half, decode (len ++ 0#8 ++ 0x10#8) = .ok (.encode len.toNat)) ∧
  reservedExactlyWhen 0x10#8 (fun w => w.extractLsb' 8 8 ≠ 0#8)

/-- 42_codec.md R202: TX_SEND starts the transmission and changes nothing else; TX_BUSY is checked before TX_EMPTY; its
word, and the reserved bits 31:8. -/
def Obligations.TxSendStartsTheTransmission : Prop :=
  (∀ s : State, s.tx.busy = false → s.tx.len ≠ 0#9 →
    exec .txSend s = .next { s with tx := { len := s.tx.len, pos := 0#9, busy := true } }) ∧
  (∀ s : State, s.tx.busy = true →
    exec .txSend s = .next { s with err := 0x1103#16, event := s.event ||| 4#4 }) ∧
  (∀ s : State, s.tx.busy = false → s.tx.len = 0#9 →
    exec .txSend s = .next { s with err := 0x1106#16, event := s.event ||| 4#4 }) ∧
  decode 0x00000011#32 = .ok .txSend ∧
  reservedExactlyWhen 0x11#8 (fun w => w.extractLsb' 8 24 ≠ 0#24)

/-- 42_codec.md R202..R204, 43_receive.md R230: TX_SEND and then TX_LEN takes put exactly `TXBUF[0..TX_LEN-1]` on the
line, in order, and end the transmission with TX_DONE; no other part of the block changes. And one take in the middle of
any transmission, between whatever other events: the byte `TXBUF[TX_POS]` goes to the line and TX_POS advances; the take
of the last byte also ends the transmission with TX_DONE, and with an XACT pending it arms the receiver; nothing else
changes. (`txLine`, `hostResp` and `pending` are the model's record of the sink, the host and the events, log 3, log 8.)
-/
def Obligations.TransmissionDeliversTheFrame : Prop :=
  (∀ s : State, s.tx.busy = false → s.tx.len ≠ 0#9 → s.rx.xactPend = false → s.guardCnt = 0#16 →
    runEvents (commandEvents [.txSend] ++ List.replicate s.tx.len.toNat .txAccept) s =
      .next { s with
        tx := { len := s.tx.len, pos := s.tx.len, busy := false }, event := s.event ||| 2#4,
        txLine := s.txLine ++ s.txBytes s.tx.len.toNat, hostResp := .written }) ∧
  (∀ (s : State) (rest : List AgentEvent),
    TransmitterInv s → s.tx.busy = true → s.guardCnt = 0#16 → s.pending = .txAccept :: rest →
      (s.tx.pos.toNat + 1 < s.tx.len.toNat →
        step s = .next { s with
          pending := rest, tx := { len := s.tx.len, pos := s.tx.pos + 1#9, busy := true },
          txLine := s.txLine ++ [s.byteAt (0x400 + s.tx.pos.toNat)] }) ∧
      (s.tx.pos.toNat + 1 = s.tx.len.toNat → s.rx.xactPend = false →
        step s = .next { s with
          pending := rest, tx := { len := s.tx.len, pos := s.tx.len, busy := false }, event := s.event ||| 2#4,
          txLine := s.txLine ++ [s.byteAt (0x400 + s.tx.pos.toNat)] }) ∧
      (s.tx.pos.toNat + 1 = s.tx.len.toNat → s.rx.xactPend = true →
        step s = .next { s with
          pending := rest, tx := { len := s.tx.len, pos := s.tx.len, busy := false }, event := s.event ||| 2#4,
          txLine := s.txLine ++ [s.byteAt (0x400 + s.tx.pos.toNat)],
          rx := ⟨.waitAddress, s.rx.shape, s.rx.scan, false, 0#9, if s.rx.shape = .b then 8#9 else 0#9, 0#16, 0#16,
            if s.rx.scan then s.toScan else s.toNormal⟩ }))

/-- 43_receive.md R232, 42_codec.md R204: XACT sends the frame with the receiver idle, and the event that takes its last
byte arms the receiver with XACT's shape and timeout. (`txLine` is the model's record of the sink, log 8.) -/
def Obligations.XactArmsWithTheLastByte : Prop :=
  ∀ (s : State) (shape : Shape) (scan : Bool),
    s.tx.busy = false → s.rx.state.waiting = false → s.rx.xactPend = false → s.tx.len ≠ 0#9 → s.guardCnt = 0#16 →
    (∀ k : Nat, k < s.tx.len.toNat →
      ∃ t : State, runEvents (commandEvents [.xact shape scan] ++ List.replicate k .txAccept) s = .next t ∧
        t.rx.state = .idle ∧ t.rx.xactPend = true ∧ t.tx.busy = true ∧ t.txLine = s.txLine ++ s.txBytes k) ∧
    (∃ t : State,
      runEvents (commandEvents [.xact shape scan] ++ List.replicate s.tx.len.toNat .txAccept) s = .next t ∧
        t.rx = ⟨.waitAddress, shape, scan, false, 0#9, if shape = .b then 8#9 else 0#9, 0#16, 0#16,
          if scan then s.toScan else s.toNormal⟩ ∧
        t.tx = ⟨s.tx.len, s.tx.len, false⟩ ∧ t.event = s.event ||| 2#4 ∧
        t.txLine = s.txLine ++ s.txBytes s.tx.len.toNat ∧ (∀ a : Nat, t.byteAt a = s.byteAt a))

/-- 42_codec.md R205, 43_receive.md R246, R247: while GUARD_CNT ≠ 0 the transmitter offers no byte, so no take can
happen (a take that the list of events holds there is a fault, the model's choice, log 6); each tick takes one from the
guard, and the transmission is offered after GUARD_CNT ticks and not before. -/
def Obligations.GuardHoldsTheTransmitter : Prop :=
  (∀ (s : State) (rest : List AgentEvent), s.guardCnt ≠ 0#16 → s.pending = .txAccept :: rest →
    s.txValid = false ∧ step s = .fault .txAcceptNotEnabled) ∧
  (∀ (s : State) (k : Nat), s.tx.busy = true → k ≤ s.guardCnt.toNat →
    ∃ t : State, runEvents (List.replicate k .tick) s = .next t ∧ t.guardCnt.toNat = s.guardCnt.toNat - k ∧
      t.tx = s.tx ∧ (t.txValid = true ↔ k = s.guardCnt.toNat))

/-! ## Frame check and decoder -/

/-- 42_codec.md R210, R211: DECODE's outcome on the bytes `RXBUF[0..L-1]`, for each shape and length, and what it leaves
alone: TIMER, RX_SCAN, XACT_PEND, the guard, every buffer byte and all other units; its words, its two rejections and its
reserved bits 15:9. -/
def Obligations.DecodeChecksTheFrame : Prop :=
  (∀ (s : State) (shape : Shape) (len : Nat), s.rx.state.waiting = false → s.rx.xactPend = false → len ≤ 260 →
    ∃ t : State, exec (.decode shape len) s = .next t ∧
      t = { s with rx := t.rx, event := s.event ||| 1#4 } ∧
      t.rx.shape = shape ∧ t.rx.len = BitVec.ofNat 9 len ∧ t.rx.scan = s.rx.scan ∧ t.rx.xactPend = false ∧
      t.rx.timer = s.rx.timer ∧
      (fitsShape shape (s.rxBytes len) →
        t.rx.expect = BitVec.ofNat 9 len ∧ t.rx.crcCalc = computedCrc (s.rxBytes len) ∧
        t.rx.crcRecv = carriedCrc (s.rxBytes len) ∧
        (computedCrc (s.rxBytes len) = carriedCrc (s.rxBytes len) → t.rx.state = .complete) ∧
        (computedCrc (s.rxBytes len) ≠ carriedCrc (s.rxBytes len) → t.rx.state = .crcError)) ∧
      (¬ fitsShape shape (s.rxBytes len) →
        t.rx.state = .framingError ∧ t.rx.crcCalc = 0#16 ∧ t.rx.crcRecv = 0#16 ∧
        (shape = .b → t.rx.expect = 8#9) ∧
        (shape = .a → (len < 3 ∨ 252 < (s.rxByte 2).toNat) → t.rx.expect = 0#9) ∧
        (shape = .a → 3 ≤ len → (s.rxByte 2).toNat ≤ 252 →
          t.rx.expect = BitVec.ofNat 9 ((s.rxByte 2).toNat + 5)))) ∧
  (∀ (s : State) (shape : Shape) (len : Nat), (s.rx.state.waiting = true ∨ s.rx.xactPend = true) →
    exec (.decode shape len) s = .next { s with err := 0x2204#16, event := s.event ||| 4#4 }) ∧
  (∀ (s : State) (shape : Shape) (len : Nat), s.rx.state.waiting = false → s.rx.xactPend = false → 260 < len →
    exec (.decode shape len) s = .next { s with err := 0x2205#16, event := s.event ||| 4#4 }) ∧
  (∀ (shape : Shape) (len : Half),
    decode (len ++ 0#7 ++ shapeBit shape ++ 0x22#8) = .ok (.decode shape len.toNat)) ∧
  reservedExactlyWhen 0x22#8 (fun w => w.extractLsb' 9 7 ≠ 0#7)

/-- 42_codec.md R213: the round trip. ENCODE builds `TXBUF[0..L+3]`; with those bytes in RXBUF of any state `u` whose
receiver is free, DECODE of L+4 bytes is COMPLETE exactly when the payload fits the shape, with the frame's CRC in both
halves of RX_CRC, and FRAMING_ERROR otherwise. -/
def Obligations.DecodeOfEncodedFrame : Prop :=
  ∀ (s t u v : State) (shape : Shape) (len : Nat),
    s.tx.busy = false → len ≤ 253 → exec (.encode len) s = .next t →
    u.rx.state.waiting = false → u.rx.xactPend = false →
    (∀ k : Nat, k < len + 4 → u.rxByte k = t.txByte k) →
    exec (.decode shape (len + 4)) u = .next v →
      ((shape = .b ∧ len = 4) ∨ (shape = .a ∧ 1 ≤ len ∧ (s.txByte 2).toNat = len - 1) →
        v.rx.state = .complete ∧ v.rx.expect = BitVec.ofNat 9 (len + 4) ∧
        (∀ k : Nat, k < len + 2 → v.rxByte k = s.txByte k) ∧
        v.rx.crcRecv = crc16 (s.txBytes (len + 2)) ∧ v.rx.crcCalc = crc16 (s.txBytes (len + 2))) ∧
      (¬ ((shape = .b ∧ len = 4) ∨ (shape = .a ∧ 1 ≤ len ∧ (s.txByte 2).toNat = len - 1)) →
        v.rx.state = .framingError)

/-- 42_codec.md R214: no event makes a frame COMPLETE unless its length fits the shape and the CRC it carries is the one
computed over it. -/
def Obligations.NoFabricatedFrame : Prop :=
  ∀ (s t : State) (e : AgentEvent) (rest : List AgentEvent),
    s.pending = e :: rest → step s = .next t → t.rx.state = .complete →
    (s.rx.state ≠ .complete ∨ (∃ (shape : Shape) (len : Nat), e = commandEvent (encode (.decode shape len)) ∧
      len < 2 ^ 16 ∧ commandError (.decode shape len) s = none)) →
      t.rx.len = t.rx.expect ∧ fitsShape t.rx.shape (t.rxBytes t.rx.len.toNat) ∧
      computedCrc (t.rxBytes t.rx.len.toNat) = carriedCrc (t.rxBytes t.rx.len.toNat)

/-! ## Receive unit -/

/-- 43_receive.md R230, R231: RX_START arms the receiver and changes nothing else; RX_BUSY; its words and its reserved
bits 31:10. -/
def Obligations.RxStartArms : Prop :=
  (∀ (s : State) (shape : Shape) (scan : Bool), s.rx.state.waiting = false → s.rx.xactPend = false →
    exec (.rxStart shape scan) s =
      .next { s with
        rx := ⟨.waitAddress, shape, scan, false, 0#9, if shape = .b then 8#9 else 0#9, 0#16, 0#16,
          if scan then s.toScan else s.toNormal⟩ }) ∧
  (∀ (s : State) (shape : Shape) (scan : Bool), (s.rx.state.waiting = true ∨ s.rx.xactPend = true) →
    exec (.rxStart shape scan) s = .next { s with err := 0x2004#16, event := s.event ||| 4#4 }) ∧
  (∀ (shape : Shape) (scan : Bool),
    decode (0#22 ++ BitVec.ofBool scan ++ shapeBit shape ++ 0x20#8) = .ok (.rxStart shape scan)) ∧
  reservedExactlyWhen 0x20#8 (fun w => w.extractLsb' 10 22 ≠ 0#22)

/-- 43_receive.md R232: XACT's own writes, its checks in their order, its words and its reserved bits 31:10. -/
def Obligations.XactStartsAndPends : Prop :=
  (∀ (s : State) (shape : Shape) (scan : Bool),
    s.tx.busy = false → s.rx.state.waiting = false → s.rx.xactPend = false → s.tx.len ≠ 0#9 →
    exec (.xact shape scan) s =
      .next { s with
        rx := { s.rx with state := .idle, shape := shape, scan := scan, xactPend := true },
        tx := { len := s.tx.len, pos := 0#9, busy := true } }) ∧
  (∀ (s : State) (shape : Shape) (scan : Bool), s.tx.busy = true →
    exec (.xact shape scan) s = .next { s with err := 0x1203#16, event := s.event ||| 4#4 }) ∧
  (∀ (s : State) (shape : Shape) (scan : Bool), s.tx.busy = false →
    (s.rx.state.waiting = true ∨ s.rx.xactPend = true) →
    exec (.xact shape scan) s = .next { s with err := 0x1204#16, event := s.event ||| 4#4 }) ∧
  (∀ (s : State) (shape : Shape) (scan : Bool),
    s.tx.busy = false → s.rx.state.waiting = false → s.rx.xactPend = false → s.tx.len = 0#9 →
    exec (.xact shape scan) s = .next { s with err := 0x1206#16, event := s.event ||| 4#4 }) ∧
  (∀ (shape : Shape) (scan : Bool),
    decode (0#22 ++ BitVec.ofBool scan ++ shapeBit shape ++ 0x12#8) = .ok (.xact shape scan)) ∧
  reservedExactlyWhen 0x12#8 (fun w => w.extractLsb' 10 22 ≠ 0#22)

/-- 43_receive.md R233: RX_ABORT stops a waiting receive and cancels a pending arm, sets no event and stops no
transmission; its word, and its reserved bits 31:8. -/
def Obligations.RxAbortStopsTheReceive : Prop :=
  (∀ s : State, s.rx.state.waiting = true →
    exec .rxAbort s = .next { s with rx := { s.rx with state := .idle, timer := 0#16, xactPend := false } }) ∧
  (∀ s : State, s.rx.state.waiting = false →
    exec .rxAbort s = .next { s with rx := { s.rx with xactPend := false } }) ∧
  decode 0x00000021#32 = .ok .rxAbort ∧
  reservedExactlyWhen 0x21#8 (fun w => w.extractLsb' 8 24 ≠ 0#24)

/-- 43_receive.md R234: a byte that arrives while the receiver is not waiting is discarded; only EVENT.RX_DROP shows
it. -/
def Obligations.ByteOutsideAReceiveIsDropped : Prop :=
  ∀ (s : State) (b : Byte) (rest : List AgentEvent),
    s.rx.state.waiting = false → s.pending = .rxByte b :: rest →
      step s = .next { s with event := s.event ||| 8#4, pending := rest }

/-- 43_receive.md R235..R239, R245: what a byte does in each waiting state of a run: it is stored at `RXBUF[RX_LEN]`, no
other buffer byte changes, and the rest of the state is the state before but for what the rule of the waiting state
names, each clause giving all of it. (`pending` is the model's, log 3; RX_CRC at a framing error, log 15.) -/
def Obligations.ByteInAReceive : Prop :=
  ∀ (s : State) (b : Byte) (rest : List AgentEvent),
    ReceiverInv s → s.rx.state.waiting = true → s.pending = .rxByte b :: rest →
      ∃ t : State, step s = .next t ∧
        t.rxByte s.rx.len.toNat = b ∧ (∀ a : Nat, a ≠ 0x600 + s.rx.len.toNat → t.byteAt a = s.byteAt a) ∧
        (s.rx.state = .waitAddress →
          t = { s with
            pending := rest, mem := t.mem,
            rx := { s.rx with
              len := 1#9, state := if s.rx.shape = .a then .waitHeader else .waitBody,
              timer := if s.rx.scan then s.toScan else s.toNormal } }) ∧
        (s.rx.state = .waitHeader → s.rx.len = 1#9 →
          t = { s with pending := rest, mem := t.mem, rx := { s.rx with len := 2#9 } }) ∧
        (s.rx.state = .waitHeader → s.rx.len = 2#9 → b.toNat ≤ 252 →
          t = { s with
            pending := rest, mem := t.mem,
            rx := { s.rx with
              len := 3#9, state := .waitBody, expect := BitVec.ofNat 9 (b.toNat + 5),
              timer := if s.rx.scan then s.toScan else s.toNormal } }) ∧
        (s.rx.state = .waitHeader → s.rx.len = 2#9 → 252 < b.toNat →
          t = { s with
            pending := rest, mem := t.mem, event := s.event ||| 1#4,
            rx := { s.rx with
              len := 3#9, state := .framingError, expect := 0#9, crcCalc := 0#16, crcRecv := 0#16,
              timer := 0#16 } }) ∧
        (s.rx.state = .waitBody → s.rx.len.toNat + 1 < s.rx.expect.toNat →
          t = { s with pending := rest, mem := t.mem, rx := { s.rx with len := s.rx.len + 1#9 } }) ∧
        (s.rx.state = .waitBody → s.rx.len.toNat + 1 = s.rx.expect.toNat →
          (computedCrc (t.rxBytes s.rx.expect.toNat) = carriedCrc (t.rxBytes s.rx.expect.toNat) →
            t = { s with
              pending := rest, mem := t.mem, event := s.event ||| 1#4, guardCnt := s.guard,
              rx := { s.rx with
                len := s.rx.expect, state := .complete, timer := 0#16,
                crcCalc := computedCrc (t.rxBytes s.rx.expect.toNat),
                crcRecv := carriedCrc (t.rxBytes s.rx.expect.toNat) } }) ∧
          (computedCrc (t.rxBytes s.rx.expect.toNat) ≠ carriedCrc (t.rxBytes s.rx.expect.toNat) →
            t = { s with
              pending := rest, mem := t.mem, event := s.event ||| 1#4,
              rx := { s.rx with
                len := s.rx.expect, state := .crcError, timer := 0#16,
                crcCalc := computedCrc (t.rxBytes s.rx.expect.toNat),
                crcRecv := carriedCrc (t.rxBytes s.rx.expect.toNat) } }))

/-- 43_receive.md R241, R242, R246: one tick, in every state. -/
def Obligations.TickMovesBothCounters : Prop :=
  ∀ (s : State) (rest : List AgentEvent), s.pending = .tick :: rest →
    ∃ t : State, step s = .next t ∧
      t.guardCnt = (if s.guardCnt = 0#16 then 0#16 else s.guardCnt - 1#16) ∧
      (s.rx.state.waiting = true → s.rx.timer.toNat ≤ 1 →
        t = { s with
          pending := rest, guardCnt := t.guardCnt, event := s.event ||| 1#4,
          rx := { s.rx with state := .timeout, timer := 0#16 } }) ∧
      (s.rx.state.waiting = true → 1 < s.rx.timer.toNat →
        t = { s with
          pending := rest, guardCnt := t.guardCnt, rx := { s.rx with timer := s.rx.timer - 1#16 } }) ∧
      (s.rx.state.waiting = false → t = { s with pending := rest, guardCnt := t.guardCnt })

/-- 43_receive.md R230..R239, R245: a receive started on a free receiver and given the bytes of a frame that fits its
shape ends at the last of them, COMPLETE when the carried CRC is the computed one (the guard is then loaded) and
CRC_ERROR otherwise, with the frame in RXBUF and both CRCs in RX_CRC. -/
def Obligations.ReceiveOfAWholeFrame : Prop :=
  ∀ (s : State) (shape : Shape) (scan : Bool) (f : List Byte),
    s.rx.state.waiting = false → s.rx.xactPend = false → fitsShape shape f →
      ∃ t : State, runEvents (commandEvents [.rxStart shape scan] ++ f.map .rxByte) s = .next t ∧
        t.rxBytes f.length = f ∧ t.rx.len.toNat = f.length ∧ t.rx.expect.toNat = f.length ∧ t.rx.timer = 0#16 ∧
        t.rx.crcCalc = computedCrc f ∧ t.rx.crcRecv = carriedCrc f ∧ t.event = s.event ||| 1#4 ∧
        (computedCrc f = carriedCrc f → t.rx.state = .complete ∧ t.guardCnt = s.guard) ∧
        (computedCrc f ≠ carriedCrc f → t.rx.state = .crcError ∧ t.guardCnt = s.guardCnt) ∧
        t.tx = s.tx ∧ t.med = s.med ∧ t.ma = s.ma ∧ t.crc = s.crc ∧ t.err = s.err

/-- 43_receive.md R249: a frame that stops before its last byte never completes: once the ticks of one timeout have
passed, the receive is in TIMEOUT with the bytes received so far. (Here no tick comes between the bytes; R250's statement,
ReceiveEndsWithinThreeTimeouts, bounds a receive whose ticks come anywhere.) -/
def Obligations.TruncatedFrameTimesOut : Prop :=
  ∀ (s : State) (shape : Shape) (scan : Bool) (f : List Byte) (k m : Nat),
    s.rx.state.waiting = false → s.rx.xactPend = false → fitsShape shape f → k < f.length →
    max (s.timeoutFor scan).toNat 1 ≤ m →
      ∃ t : State,
        runEvents (commandEvents [.rxStart shape scan] ++ (f.take k).map .rxByte ++ List.replicate m .tick) s =
          .next t ∧
        t.rx.state = .timeout ∧ t.rx.len.toNat = k ∧ t.rxBytes k = f.take k ∧ t.event = s.event ||| 1#4

/-- 43_receive.md R250: a receive ends within `3 × max(sel, 1)` ticks of its arm, whatever bytes come between the ticks
and wherever they come, and within `max(sel, 1)` ticks when none comes. -/
def Obligations.ReceiveEndsWithinThreeTimeouts : Prop :=
  ∀ (s : State) (es : List AgentEvent),
    ReceiverInv s → s.rx.state = .waitAddress → s.rx.timer = s.timeoutFor s.rx.scan →
    (∀ e ∈ es, e = .tick ∨ ∃ b : Byte, e = .rxByte b) →
      (3 * max (s.timeoutFor s.rx.scan).toNat 1 ≤ es.count .tick →
        ∃ t : State, runEvents es s = .next t ∧ t.rx.state.terminal = true) ∧
      ((∀ e ∈ es, e = .tick) → max (s.timeoutFor s.rx.scan).toNat 1 ≤ es.length →
        ∃ t : State, runEvents es s = .next t ∧ t.rx.state = .timeout)

/-! ## Median unit -/

/-- 44_median.md R280: MED_INIT's writes, what it leaves alone, its word and its reserved bits 31:8. -/
def Obligations.MedInitClears : Prop :=
  (∀ s : State, ∃ t : State, exec .medInit s = .next t ∧ t = { s with med := t.med } ∧
    t.med.tsIn = s.med.tsIn ∧ t.med.inp = s.med.inp ∧ t.med.warm = false ∧ t.med.idx = 0 ∧ t.med.tsOut = 0#32 ∧
    (∀ c : Fin 8, t.med.out.get c = 0x8000#16) ∧
    (∀ k : Fin 3, t.med.ring[k].ts = 0#32 ∧ ∀ c : Fin 8, t.med.ring[k].v.get c = 0x8000#16)) ∧
  decode 0x00000030#32 = .ok .medInit ∧
  reservedExactlyWhen 0x30#8 (fun w => w.extractLsb' 8 24 ≠ 0#24)

/-- 44_median.md R281, R282: one push from any state: the index advances, the sample is stored, every lane is computed
from the oldest, middle and newest slot, the first push seeding all three; nothing outside the unit changes, nor its
inputs; its word, and the reserved bits 31:8. -/
def Obligations.MedPushFiltersOneSample : Prop :=
  (∀ s : State, ∃ t : State, exec .medPush s = .next t ∧ t = { s with med := t.med } ∧
    t.med.tsIn = s.med.tsIn ∧ t.med.inp = s.med.inp ∧ t.med.warm = true ∧
    t.med.idx.val = (s.med.idx.val + 1) % 3 ∧ t.med.ring[t.med.idx] = ⟨s.med.tsIn, s.med.inp⟩ ∧
    (s.med.warm = false → t.med.out = s.med.inp ∧ t.med.tsOut = s.med.tsIn ∧
      ∀ k : Fin 3, t.med.ring[k] = ⟨s.med.tsIn, s.med.inp⟩) ∧
    (s.med.warm = true →
      (∀ k : Fin 3, k ≠ t.med.idx → t.med.ring[k] = s.med.ring[k]) ∧
      t.med.tsOut = s.med.ring[s.med.idx].ts ∧
      ∀ c : Fin 8, t.med.out.get c =
        laneOut (s.med.ring[Fin.ofNat 3 (s.med.idx.val + 2)].v.get c) (s.med.ring[s.med.idx].v.get c)
          (s.med.inp.get c))) ∧
  decode 0x00000031#32 = .ok .medPush ∧
  reservedExactlyWhen 0x31#8 (fun w => w.extractLsb' 8 24 ≠ 0#24)

/-- 44_median.md R283: `med3` is the middle value of the three in every order, ties included. -/
def Obligations.MedianOfThreeIsTheMiddleValue : Prop :=
  ∀ a b c : Half,
    (med3 a b c = a ∨ med3 a b c = b ∨ med3 a b c = c) ∧
    (med3 a b c).toInt = max (min a.toInt b.toInt) (min (max a.toInt b.toInt) c.toInt)

/-- 44_median.md R284: the sentinel rules of one lane. -/
def Obligations.LaneOutputFollowsTheSentinelRules : Prop :=
  ∀ vo vm vn : Half,
    (vn = 0x8000#16 → laneOut vo vm vn = 0x8000#16) ∧
    (vn ≠ 0x8000#16 → (vm = 0x8000#16 ∨ vo = 0x8000#16) → laneOut vo vm vn = vn) ∧
    (vn ≠ 0x8000#16 → vm ≠ 0x8000#16 → vo ≠ 0x8000#16 → laneOut vo vm vn = med3 vo vm vn) ∧
    (laneOut vo vm vn = vo ∨ laneOut vo vm vn = vm ∨ laneOut vo vm vn = vn) ∧
    (laneOut vo vm vn = 0x8000#16 ↔ vn = 0x8000#16)

/-- 44_median.md R289, R285: after any history, the output of the third of three pushes is the lane output of those
three samples, stamped with the second's timestamp. -/
def Obligations.MedianWindowIsTheLastThreeSamples : Prop :=
  ∀ (s t u v : State) (x y z : Sample),
    medPushOf x s = .next t → medPushOf y t = .next u → medPushOf z u = .next v →
      v.med.tsOut = y.ts ∧
      ∀ c : Fin 8, v.med.out.get c = laneOut (x.v.get c) (y.v.get c) (z.v.get c)

/-- 44_median.md R288: after any history, two successive pushes of the same non-sentinel value give that value on the
second; after warm-up seeding the first push already does. -/
def Obligations.MedianConvergesOnConstantInput : Prop :=
  ∀ (s t u : State) (x y : Sample) (c : Fin 8),
    x.v.get c ≠ 0x8000#16 → y.v.get c = x.v.get c → medPushOf x s = .next t → medPushOf y t = .next u →
      u.med.out.get c = x.v.get c ∧ (s.med.warm = false → t.med.out.get c = x.v.get c)

/-! ## Moving-average unit -/

/-- 45_moving_average.md R310, R311: MA_INIT accepts exactly 3, 5, …, 15, discards all prior state of the unit but its
inputs and touches nothing else; any other size is rejected with BAD_WINDOW; its words, and the reserved bits 31:16. -/
def Obligations.MaInitConfiguresTheWindow : Prop :=
  (∀ (s : State) (n : Nat), n ∈ [3, 5, 7, 9, 11, 13, 15] →
    ∃ t : State, exec (.maInit n) s = .next t ∧ t = { s with ma := t.ma } ∧
      t.ma.tsIn = s.ma.tsIn ∧ t.ma.inp = s.ma.inp ∧ t.ma.n.toNat = n ∧ t.ma.widx = 0 ∧ t.ma.seen = 0#4 ∧
      t.ma.tsv = false ∧ t.ma.tsOut = 0#32 ∧
      (∀ c : Fin 8, t.ma.out.get c = 0x8000#16 ∧ t.ma.num.get c = 0#32 ∧ t.ma.den.get c = 0#5) ∧
      (∀ k : Fin 15, t.ma.ring[k].ts = 0#32 ∧ ∀ c : Fin 8, t.ma.ring[k].v.get c = 0x8000#16)) ∧
  (∀ (s : State) (n : Nat), n ∉ [3, 5, 7, 9, 11, 13, 15] →
    exec (.maInit n) s = .next { s with err := 0x4007#16, event := s.event ||| 4#4 }) ∧
  (∀ n : Byte, decode (0#16 ++ n ++ 0x40#8) = .ok (.maInit n.toNat)) ∧
  reservedExactlyWhen 0x40#8 (fun w => w.extractLsb' 16 16 ≠ 0#16)

/-- 45_moving_average.md R315, R317: one push on a configured unit of a run: the sample stored at the write index, the
index advanced, the seen-count raised up to the window, the timestamp of the middle slot and its validity; nothing
outside the unit changes, nor its inputs, nor another slot. An unconfigured unit rejects the push; its word, and the
reserved bits 31:8. -/
def Obligations.MaPushStoresAndAdvances : Prop :=
  (∀ s : State, MovingAverageInv s → s.ma.n ≠ 0#4 →
    ∃ t : State, exec .maPush s = .next t ∧ t = { s with ma := t.ma } ∧
      t.ma.tsIn = s.ma.tsIn ∧ t.ma.inp = s.ma.inp ∧ t.ma.n = s.ma.n ∧
      t.ma.ring[s.ma.widx] = ⟨s.ma.tsIn, s.ma.inp⟩ ∧
      (∀ k : Fin 15, k ≠ s.ma.widx → t.ma.ring[k] = s.ma.ring[k]) ∧
      t.ma.widx.val = (s.ma.widx.val + 1) % s.ma.n.toNat ∧
      t.ma.seen.toNat = min (s.ma.seen.toNat + 1) s.ma.n.toNat ∧
      (t.ma.tsv = true ↔ (s.ma.n.toNat - 1) / 2 < t.ma.seen.toNat) ∧
      (∀ k : Fin 15, k.val < s.ma.n.toNat → (k.val + (s.ma.n.toNat - 1) / 2) % s.ma.n.toNat = s.ma.widx.val →
        t.ma.tsOut = t.ma.ring[k].ts)) ∧
  (∀ s : State, s.ma.n = 0#4 → exec .maPush s = .next { s with err := 0x4108#16, event := s.event ||| 4#4 }) ∧
  decode 0x00000041#32 = .ok .maPush ∧
  reservedExactlyWhen 0x41#8 (fun w => w.extractLsb' 8 24 ≠ 0#24)

/-- 45_moving_average.md R316..R319: after MA_INIT of a valid window and any number of pushes, every lane shows the
exact doubled-weight sums over the samples pushed since (the plain mean's before the window is full, the trapezoidal
one's of the last N from then on), the rounded quotient or the sentinel, and the timestamp of the sample (N-1)/2 behind
the newest, 0 while there is none. -/
def Obligations.MovingAverageOfTheLastSamples : Prop :=
  ∀ (s t u : State) (n : Nat) (xs : List Sample) (c : Fin 8),
    n ∈ [3, 5, 7, 9, 11, 13, 15] → exec (.maInit n) s = .next t → maPushAll xs t = .next u →
      (u.ma.num.get c).toInt = windowSum n sampleValue (xs.reverse.map fun x => x.v.get c) ∧
      ((u.ma.den.get c).toNat : Int) = windowSum n sampleCount (xs.reverse.map fun x => x.v.get c) ∧
      ((u.ma.den.get c).toNat = 0 → u.ma.out.get c = 0x8000#16) ∧
      ((u.ma.den.get c).toNat ≠ 0 →
        (u.ma.out.get c).toInt = roundHalfAway (u.ma.num.get c).toInt (u.ma.den.get c).toNat) ∧
      u.ma.tsOut = (match xs.reverse[(n - 1) / 2]? with | some x => x.ts | none => 0#32) ∧
      (u.ma.tsv = true ↔ (n - 1) / 2 < xs.length)

/-- 45_moving_average.md R320: the rounded quotient is a nearest integer, and at a tie the one further from zero. -/
def Obligations.RoundingIsNearestTiesAway : Prop :=
  ∀ (num : Int) (den : Nat), 0 < den →
    2 * |roundHalfAway num den * den - num| ≤ den ∧
    (2 * |roundHalfAway num den * den - num| = den → |num| < |roundHalfAway num den * den|)

/-- 45_moving_average.md R321: when some reading of a lane is in the window, the output lies between the least and the
greatest of the readings, so it fits 16 bits and is no sentinel. -/
def Obligations.MaOutputLiesAmongTheReadings : Prop :=
  ∀ (s t : State) (c : Fin 8) (lo hi : Int),
    MovingAverageInv s → exec .maPush s = .next t → s.ma.n ≠ 0#4 →
    (∀ k : Fin 15, t.ma.ring[k].v.get c ≠ 0x8000#16 →
      lo ≤ (t.ma.ring[k].v.get c).toInt ∧ (t.ma.ring[k].v.get c).toInt ≤ hi) →
    t.ma.den.get c ≠ 0#5 →
      lo ≤ (t.ma.out.get c).toInt ∧ (t.ma.out.get c).toInt ≤ hi ∧ t.ma.out.get c ≠ 0x8000#16

/-- 45_moving_average.md R324: a lane whose readings in the window are all `x` outputs `x` exactly. -/
def Obligations.MaConstantInputGivesTheConstant : Prop :=
  ∀ (s t : State) (c : Fin 8) (x : Half),
    MovingAverageInv s → exec .maPush s = .next t → s.ma.n ≠ 0#4 → x ≠ 0x8000#16 → s.ma.inp.get c = x →
    (∀ k : Fin 15, t.ma.ring[k].v.get c = x ∨ t.ma.ring[k].v.get c = 0x8000#16) →
      t.ma.out.get c = x ∧ (t.ma.num.get c).toInt = x.toInt * (t.ma.den.get c).toNat ∧ t.ma.den.get c ≠ 0#5

/-- 45_moving_average.md R325: a full window stays full at every event but MA_INIT, SOFT_RESET and Reset. -/
def Obligations.SteadyStatePersists : Prop :=
  ∀ (s t : State) (e : AgentEvent) (rest : List AgentEvent),
    MovingAverageInv s → s.ma.n ≠ 0#4 → s.ma.seen = s.ma.n → s.pending = e :: rest → step s = .next t →
    e ≠ .reset → (∀ n : Nat, n < 2 ^ 8 → e ≠ commandEvent (encode (.maInit n))) →
    e ≠ commandEvent (encode .softReset) →
      t.ma.n = s.ma.n ∧ t.ma.seen = t.ma.n

/-! ## Host bus -/

/-- 20_memory.md R91, R95: an address reaches a register or buffer word exactly when it is that word's address. -/
def Obligations.RegisterMapIsTheTable : Prop :=
  (∀ (a : Addr) (r : Reg), regAt a = some r ↔ r.address = a.toNat) ∧
  (∀ a : Addr, regAt a = none ↔ ¬ mappedAddress a.toNat)

/-- 20_memory.md R96, R98: a refused access changes no state of the block: the only trace is the bus's answer, with data
0 for a read. (`hostResp` is the model's record of that answer, log 5, log 8.) -/
def Obligations.BusErrorChangesNothing : Prop :=
  (∀ (s : State) (a : Addr) (d : Word) (rest : List AgentEvent),
    (¬ mappedAddress a.toNat ∨ (0x400 ≤ a.toNat ∧ a.toNat < 0x504 ∧ s.tx.busy = true) ∨
      (0x600 ≤ a.toNat ∧ a.toNat < 0x704 ∧ (s.rx.state.waiting = true ∨ s.rx.xactPend = true))) →
    s.pending = .hostWrite a d :: rest → step s = .next { s with pending := rest, hostResp := .writeError }) ∧
  (∀ (s : State) (a : Addr) (rest : List AgentEvent), ¬ mappedAddress a.toNat →
    s.pending = .hostRead a :: rest → step s = .next { s with pending := rest, hostResp := .readError 0#32 })

/-- 20_memory.md R97, R98, R93, 10_state.md R31..R59, R65, R66: every read of a mapped address is answered with the
address's word and changes nothing else. The word at every address but STATUS (which StatusWordFields states): the
registers, 0 in the bits they do not implement; RX_CRC with RECV above CALC, TIMER with GUARD_CNT above TIMER, the
fields of MA_STAT; the buffer words, lowest byte least significant. (`hostResp` is the model's record of the answer, log
8; a buffer byte nothing has written is a free value, log 1.) -/
def Obligations.MappedReadsHaveNoSideEffect : Prop :=
  (∀ (s : State) (a : Addr) (rest : List AgentEvent), mappedAddress a.toNat → s.pending = .hostRead a :: rest →
    ∃ d : Word, s.busRead a = some d ∧ step s = .next { s with pending := rest, hostResp := .readData d }) ∧
  (∀ s : State,
    s.busRead 0x000#12 = some 0x52344442#32 ∧ s.busRead 0x004#12 = some 0#32 ∧
    s.busRead 0x00C#12 = some (s.event.setWidth 32) ∧ s.busRead 0x010#12 = some (s.irqEn.setWidth 32) ∧
    s.busRead 0x014#12 = some (s.err.setWidth 32) ∧ s.busRead 0x018#12 = some (s.crc.setWidth 32) ∧
    s.busRead 0x01C#12 = some (s.toNormal.setWidth 32) ∧ s.busRead 0x020#12 = some (s.toScan.setWidth 32) ∧
    s.busRead 0x024#12 = some (s.guard.setWidth 32) ∧ s.busRead 0x028#12 = some (s.tx.len.setWidth 32) ∧
    s.busRead 0x02C#12 = some (s.tx.pos.setWidth 32) ∧ s.busRead 0x030#12 = some (s.rx.len.setWidth 32) ∧
    s.busRead 0x034#12 = some (s.rx.expect.setWidth 32) ∧ s.busRead 0x038#12 = some (s.rx.crcRecv ++ s.rx.crcCalc) ∧
    s.busRead 0x03C#12 = some (s.guardCnt ++ s.rx.timer) ∧ s.busRead 0x040#12 = some s.med.tsIn ∧
    s.busRead 0x044#12 = some s.med.tsOut ∧ s.busRead 0x090#12 = some s.ma.tsIn ∧
    s.busRead 0x094#12 = some s.ma.tsOut) ∧
  (∀ s : State, ∃ w : Word, s.busRead 0x098#12 = some w ∧
    w.extractLsb' 0 4 = s.ma.n ∧ (w.extractLsb' 4 4).toNat = s.ma.widx.val ∧ w.extractLsb' 8 4 = s.ma.seen ∧
    w.getLsbD 12 = s.ma.tsv ∧ (w.getLsbD 13 = true ↔ s.ma.n ≠ 0#4 ∧ s.ma.seen = s.ma.n) ∧
    w.extractLsb' 14 18 = 0#18) ∧
  (∀ (s : State) (c : Fin 8),
    s.busRead (BitVec.ofNat 12 (0x050 + 4 * c.val)) = some ((s.med.inp.get c).setWidth 32) ∧
    s.busRead (BitVec.ofNat 12 (0x070 + 4 * c.val)) = some ((s.med.out.get c).setWidth 32) ∧
    s.busRead (BitVec.ofNat 12 (0x0A0 + 4 * c.val)) = some ((s.ma.inp.get c).setWidth 32) ∧
    s.busRead (BitVec.ofNat 12 (0x0C0 + 4 * c.val)) = some ((s.ma.out.get c).setWidth 32) ∧
    s.busRead (BitVec.ofNat 12 (0x0E0 + 4 * c.val)) = some (s.ma.num.get c) ∧
    s.busRead (BitVec.ofNat 12 (0x100 + 4 * c.val)) = some ((s.ma.den.get c).setWidth 32)) ∧
  (∀ (s : State) (k : Fin 65),
    s.busRead (BitVec.ofNat 12 (0x400 + 4 * k.val)) =
      some (s.txByte (4 * k.val + 3) ++ s.txByte (4 * k.val + 2) ++ s.txByte (4 * k.val + 1) ++ s.txByte (4 * k.val)) ∧
    s.busRead (BitVec.ofNat 12 (0x600 + 4 * k.val)) =
      some (s.rxByte (4 * k.val + 3) ++ s.rxByte (4 * k.val + 2) ++ s.rxByte (4 * k.val + 1) ++ s.rxByte (4 * k.val)))

/-- 20_memory.md R93, R98: a word written to TXBUF or RXBUF while its gate is open puts its byte `j` at buffer byte
`4k+j`, changes no other byte and nothing else, and is read back whole. -/
def Obligations.BufferWordWriteThenRead : Prop :=
  ∀ (s : State) (a : Addr) (d : Word) (rest : List AgentEvent),
    a.toNat % 4 = 0 →
    ((0x400 ≤ a.toNat ∧ a.toNat < 0x504 ∧ s.tx.busy = false) ∨
      (0x600 ≤ a.toNat ∧ a.toNat < 0x704 ∧ s.rx.state.waiting = false ∧ s.rx.xactPend = false)) →
    s.pending = .hostWrite a d :: rest →
      ∃ t : State, step s = .next t ∧ t = { s with pending := rest, hostResp := .written, mem := t.mem } ∧
        (∀ j : Nat, j < 4 → t.byteAt (a.toNat + j) = d.extractLsb' (8 * j) 8) ∧
        (∀ x : Nat, (x < a.toNat ∨ a.toNat + 4 ≤ x) → t.byteAt x = s.byteAt x) ∧
        t.busRead a = some d

/-- 10_state.md R65, R66, R35..R58: what a host write to each register other than CMD and the buffers does: a
read-write register takes its implemented bits, EVENT is write-one-to-clear, every read-only register ignores it. -/
def Obligations.RegisterWritesFollowTheAccessTypes : Prop :=
  ∀ (s : State) (a : Addr) (d : Word) (rest : List AgentEvent),
    mappedAddress a.toNat → a.toNat < 0x120 → a ≠ 0x004#12 → s.pending = .hostWrite a d :: rest →
    ∃ t : State, step s = .next t ∧ t.hostResp = .written ∧ t.pending = rest ∧
      (∀ b : Addr, b ≠ a → b ≠ 0x008#12 → t.busRead b = s.busRead b) ∧
      t.rx = s.rx ∧ t.tx = s.tx ∧ t.guardCnt = s.guardCnt ∧ t.mem = s.mem ∧
      t.med = { s.med with tsIn := t.med.tsIn, inp := t.med.inp } ∧
      t.ma = { s.ma with tsIn := t.ma.tsIn, inp := t.ma.inp } ∧
      (a = 0x00C#12 → t.busRead a = some ((s.event &&& ~~~(d.extractLsb' 0 4)).setWidth 32)) ∧
      (a = 0x010#12 → t.busRead a = some ((d.extractLsb' 0 4).setWidth 32)) ∧
      (a ∈ [0x01C#12, 0x020#12, 0x024#12] ∨ (0x050 ≤ a.toNat ∧ a.toNat < 0x070) ∨
          (0x0A0 ≤ a.toNat ∧ a.toNat < 0x0C0) →
        t.busRead a = some ((d.extractLsb' 0 16).setWidth 32)) ∧
      (a ∈ [0x040#12, 0x090#12] → t.busRead a = some d) ∧
      (a ∈ [0x000#12, 0x008#12, 0x014#12, 0x018#12] ∨ (0x028 ≤ a.toNat ∧ a.toNat < 0x040) ∨ a = 0x044#12 ∨
          (0x070 ≤ a.toNat ∧ a.toNat < 0x090) ∨ (0x094 ≤ a.toNat ∧ a.toNat < 0x0A0) ∨
          (0x0C0 ≤ a.toNat ∧ a.toNat < 0x120) →
        t = { s with pending := rest, hostResp := .written })

/-- 10_state.md R33, R34, R63: the fields of STATUS. -/
def Obligations.StatusWordFields : Prop :=
  ∀ s : State, ∃ w : Word, s.busRead 0x008#12 = some w ∧
    (w.extractLsb' 0 3 = 0#3 ↔ s.rx.state = .idle) ∧ (w.extractLsb' 0 3 = 1#3 ↔ s.rx.state = .waitAddress) ∧
    (w.extractLsb' 0 3 = 2#3 ↔ s.rx.state = .waitHeader) ∧ (w.extractLsb' 0 3 = 3#3 ↔ s.rx.state = .waitBody) ∧
    (w.extractLsb' 0 3 = 4#3 ↔ s.rx.state = .complete) ∧ (w.extractLsb' 0 3 = 5#3 ↔ s.rx.state = .timeout) ∧
    (w.extractLsb' 0 3 = 6#3 ↔ s.rx.state = .framingError) ∧ (w.extractLsb' 0 3 = 7#3 ↔ s.rx.state = .crcError) ∧
    (w.getLsbD 3 = true ↔ s.rx.shape = .b) ∧ w.getLsbD 4 = s.rx.scan ∧ w.getLsbD 5 = s.tx.busy ∧
    (w.getLsbD 6 = true ↔ s.guardCnt ≠ 0#16) ∧ w.getLsbD 7 = s.rx.xactPend ∧ w.getLsbD 8 = s.med.warm ∧
    (w.extractLsb' 9 2).toNat = s.med.idx.val ∧ (w.getLsbD 11 = true ↔ s.event &&& s.irqEn ≠ 0#4) ∧
    w.extractLsb' 12 20 = 0#20

/-! ## Events and the interrupt -/

/-- 60_exceptions.md R357, 10_state.md R35: an EVENT bit falls only by the host's write to EVENT, by SOFT_RESET or by
Reset. -/
def Obligations.EventBitsFallOnlyByTheHost : Prop :=
  ∀ (s t : State) (e : AgentEvent) (rest : List AgentEvent),
    s.pending = e :: rest → step s = .next t → e ≠ .reset → e ≠ commandEvent (encode .softReset) →
    (∀ d : Word, e ≠ .hostWrite 0x00C#12 d) →
      s.event &&& t.event = s.event

/-- 60_exceptions.md R358, R363: the level is up exactly while a source is pending and enabled; the host's write of the
pending bits to EVENT lowers it, and no bit it did not write falls. -/
def Obligations.IrqIsTheLevelOfEnabledEvents : Prop :=
  (∀ s : State, s.irq = true ↔ ∃ k : Nat, s.event.getLsbD k = true ∧ s.irqEn.getLsbD k = true) ∧
  (∀ (s : State) (d : Word) (rest : List AgentEvent), s.pending = .hostWrite 0x00C#12 d :: rest →
    ∃ t : State, step s = .next t ∧ t = { s with pending := rest, hostResp := .written, event := t.event } ∧
      (∀ k : Nat, t.event.getLsbD k = (s.event.getLsbD k && !d.getLsbD k)) ∧
      (d.extractLsb' 0 4 = s.event → t.irq = false))

/-! ## Invariants -/

/-- The state after reset meets the three invariants (10_state.md R64). -/
def Obligations.ResetMeetsTheInvariants : Prop :=
  TransmitterInv State.reset ∧ ReceiverInv State.reset ∧ MovingAverageInv State.reset

/-- 10_state.md R42, R43, 42_codec.md R203, 60_exceptions.md R350: every step keeps the transmitter's bounds, the
canonical form of the memory and the legality of the recorded error code. -/
def Obligations.StepKeepsTheTransmitterInvariant : Prop :=
  ∀ s t : State, TransmitterInv s → step s = .next t → TransmitterInv t

/-- 10_state.md R44..R46, 42_codec.md R203, R210, R214, 43_receive.md R230..R242: every step keeps the receive unit's
invariant; among it, TIMER is 0 whenever the receiver is not waiting, and a pending XACT implies a transmission. -/
def Obligations.StepKeepsTheReceiverInvariant : Prop :=
  ∀ s t : State, ReceiverInv s → step s = .next t → ReceiverInv t

/-- 10_state.md R54, R58, 45_moving_average.md R311, R316, R317, R321, R322: every step keeps the moving-average unit's
invariant. -/
def Obligations.StepKeepsTheMovingAverageInvariant : Prop :=
  ∀ s t : State, MovingAverageInv s → step s = .next t → MovingAverageInv t

/-- 42_codec.md R204, 43_receive.md R235: in a run no step is refused, and none stops but a take the transmitter does
not offer, which is the model's fault of log 6 (the fault of log 7 never comes). -/
def Obligations.OnlyADisabledTakeStops : Prop :=
  ∀ s : State, ReceiverInv s →
    (∃ t : State, step s = .next t) ∨
    (step s = .fault .txAcceptNotEnabled ∧ s.txValid = false ∧ ∃ rest : List AgentEvent, s.pending = .txAccept :: rest)
end

