-- ==== Sys2Proof/Laws/Decode.lean ====
section
/-! SUPPORT. Laws/Decode.lean: a command word as its three fields put together, and what the reserved-bit check and the
decoder do to it in those terms (30_encoding.md R120..R126). -/

namespace Sys2Proof

/-- The opcode of a word put together from its fields (R120). -/
@[simp] theorem opField_append (h : Half) (a o : Byte) : opField (h ++ a ++ o) = o := by
  have : BitVec.extractLsb' (n := 16 + 8 + 8) 0 8 (h ++ a ++ o) = o := by
    ext i hi
    simp only [BitVec.getElem_extractLsb', BitVec.getLsbD_append]
    simp [hi]
  exact this

/-- A8 of a word put together from its fields (R120). -/
@[simp] theorem a8Field_append (h : Half) (a o : Byte) : a8Field (h ++ a ++ o) = a := by
  have : BitVec.extractLsb' (n := 16 + 8 + 8) 8 8 (h ++ a ++ o) = a := by
    ext i hi
    simp only [BitVec.getElem_extractLsb', BitVec.getLsbD_append]
    simp [hi]
  exact this

/-- A16 of a word put together from its fields (R120). -/
@[simp] theorem a16Field_append (h : Half) (a o : Byte) : a16Field (h ++ a ++ o) = h := by
  have : BitVec.extractLsb' (n := 16 + 8 + 8) 16 16 (h ++ a ++ o) = h := by
    ext i hi
    simp only [BitVec.getElem_extractLsb', BitVec.getLsbD_append]
    rw [if_neg (by omega), if_neg (by omega), show 16 + i - 8 - 8 = i by omega, BitVec.getLsbD_eq_getElem]
  exact this

/-- Every word is its three fields put together (R120). -/
theorem fields_append (w : Word) : a16Field w ++ a8Field w ++ opField w = w := by
  have : ∀ i : Nat, i < 32 →
      BitVec.getLsbD (w := 16 + 8 + 8) (a16Field w ++ a8Field w ++ opField w) i = w.getLsbD i := by
    intro i hi
    simp only [BitVec.getLsbD_append, opField, a8Field, a16Field, BitVec.getLsbD_extractLsb']
    by_cases h1 : i < 8
    · simp [h1]
    · by_cases h2 : i - 8 < 8
      · simp [h1, h2, show 8 + (i - 8) = i by omega]
      · simp [h1, h2, show 16 + (i - 8 - 8) = i by omega]
        omega
  exact BitVec.eq_of_getLsbD_eq this

/-- Words are equal when their three fields are. -/
theorem word_eq_iff (w v : Word) : w = v ↔ a16Field w = a16Field v ∧ a8Field w = a8Field v ∧ opField w = opField v := by
  constructor
  · rintro rfl
    simp
  · rintro ⟨h, a, o⟩
    rw [← fields_append w, h, a, o, fields_append]

/-- Bitwise and, field by field. -/
theorem and_append (h h' : Half) (a a' o o' : Byte) :
    ((h ++ a ++ o : Word) &&& (h' ++ a' ++ o' : Word)) = ((h &&& h') ++ (a &&& a') ++ (o &&& o') : Word) := by
  exact BitVec.and_append.trans (congrArg (· ++ (o &&& o')) BitVec.and_append)

@[simp] theorem shapeField_append (h : Half) (a o : Byte) :
    shapeField (h ++ a ++ o) = if a.getLsbD 0 then .b else .a := by
  have : shapeField (h ++ a ++ o) = if (a8Field (h ++ a ++ o)).getLsbD 0 then .b else .a := by
    simp [shapeField, a8Field]
  rw [this, a8Field_append]

@[simp] theorem scanField_append (h : Half) (a o : Byte) : scanField (h ++ a ++ o) = a.getLsbD 1 := by
  have : scanField (h ++ a ++ o) = (a8Field (h ++ a ++ o)).getLsbD 1 := by simp [scanField, a8Field]
  rw [this, a8Field_append]

/-- The reserved-bit check, field by field (R123). -/
theorem checkReserved_append (h mh : Half) (a o ma mo : Byte) (i : Instr) :
    checkReserved (mh ++ ma ++ mo) (h ++ a ++ o) i =
      if h &&& mh = 0#16 ∧ a &&& ma = 0#8 then .ok i else .error .reservedField := by
  unfold checkReserved
  have hff : (0xFFFFFF00#32 : Word) = (0xFFFF#16 ++ 0xFF#8 ++ 0x00#8 : Word) := by decide
  have h0 : (0#32 : Word) = (0#16 ++ 0#8 ++ 0#8 : Word) := by decide
  have hh : ∀ x : Half, x &&& 0xFFFF#16 = x := fun x => BitVec.and_allOnes
  have ha : ∀ x : Byte, x &&& 0xFF#8 = x := fun x => BitVec.and_allOnes
  rw [hff, and_append, and_append, h0]
  simp only [word_eq_iff, a16Field_append, a8Field_append, opField_append, hh, ha]
  simp

/-- The decoder, in terms of the three fields (R124, R126). -/
theorem decode_append (h : Half) (a o : Byte) :
    decode (h ++ a ++ o) =
      match o.toNat with
      | 0x00 => if h = 0#16 ∧ a = 0#8 then .ok .nop else .error .reservedField
      | 0x01 => if h = 0#16 ∧ a = 0#8 then .ok .crcInit else .error .reservedField
      | 0x02 => if h = 0#16 then .ok (.crcByte a) else .error .reservedField
      | 0x03 => if a = 0#8 then .ok (.crcTxbuf h.toNat) else .error .reservedField
      | 0x10 => if a = 0#8 then .ok (.encode h.toNat) else .error .reservedField
      | 0x11 => if h = 0#16 ∧ a = 0#8 then .ok .txSend else .error .reservedField
      | 0x12 => if h = 0#16 ∧ a &&& 0xFC#8 = 0#8 then .ok (.xact (if a.getLsbD 0 then .b else .a) (a.getLsbD 1))
        else .error .reservedField
      | 0x20 => if h = 0#16 ∧ a &&& 0xFC#8 = 0#8 then .ok (.rxStart (if a.getLsbD 0 then .b else .a) (a.getLsbD 1))
        else .error .reservedField
      | 0x21 => if h = 0#16 ∧ a = 0#8 then .ok .rxAbort else .error .reservedField
      | 0x22 => if a &&& 0xFE#8 = 0#8 then .ok (.decode (if a.getLsbD 0 then .b else .a) h.toNat)
        else .error .reservedField
      | 0x30 => if h = 0#16 ∧ a = 0#8 then .ok .medInit else .error .reservedField
      | 0x31 => if h = 0#16 ∧ a = 0#8 then .ok .medPush else .error .reservedField
      | 0x40 => if h = 0#16 then .ok (.maInit a.toNat) else .error .reservedField
      | 0x41 => if h = 0#16 ∧ a = 0#8 then .ok .maPush else .error .reservedField
      | 0xFF => if h = 0#16 ∧ a = 0#8 then .ok .softReset else .error .reservedField
      | _ => .error .illegalOpcode := by
  have hh : ∀ x : Half, x &&& 0xFFFF#16 = x := fun x => BitVec.and_allOnes
  have ha : ∀ x : Byte, x &&& 0xFF#8 = x := fun x => BitVec.and_allOnes
  have m1 : (0xFFFFFFFF#32 : Word) = (0xFFFF#16 ++ 0xFF#8 ++ 0xFF#8 : Word) := by decide
  have m2 : (0xFFFF00FF#32 : Word) = (0xFFFF#16 ++ 0x00#8 ++ 0xFF#8 : Word) := by decide
  have m3 : (0x0000FFFF#32 : Word) = (0x0000#16 ++ 0xFF#8 ++ 0xFF#8 : Word) := by decide
  have m4 : (0xFFFFFCFF#32 : Word) = (0xFFFF#16 ++ 0xFC#8 ++ 0xFF#8 : Word) := by decide
  have m5 : (0x0000FEFF#32 : Word) = (0x0000#16 ++ 0xFE#8 ++ 0xFF#8 : Word) := by decide
  unfold decode
  rw [opField_append, m1, m2, m3, m4, m5]
  simp only [checkReserved_append, a8Field_append, a16Field_append, shapeField_append, scanField_append, hh, ha,
    BitVec.and_zero, true_and, and_true]
  all_goals rfl

/-- The three fields of a command's word (R120). -/
theorem encode_fields (i : Instr) : encode i = (i.a16 ++ i.a8 ++ i.opcode : Word) := rfl

@[simp] theorem opField_encode (i : Instr) : opField (encode i) = i.opcode := opField_append _ _ _

end Sys2Proof
end

