-- ==== Sys2Proof/Laws/State.lean ====
section
/-! SUPPORT. Laws/State.lean: each field of State after each named update, one lemma each, so that no later proof
unfolds a record update. -/

namespace Sys2Proof.Machine

variable (s : State)

/-! ### `State.setEvent`: an EVENT bit set -/

@[simp] theorem State.setEvent_event (bit : BitVec 4) : (s.setEvent bit).event = s.event ||| bit := rfl
@[simp] theorem State.setEvent_irqEn (bit : BitVec 4) : (s.setEvent bit).irqEn = s.irqEn := rfl
@[simp] theorem State.setEvent_err (bit : BitVec 4) : (s.setEvent bit).err = s.err := rfl
@[simp] theorem State.setEvent_crc (bit : BitVec 4) : (s.setEvent bit).crc = s.crc := rfl
@[simp] theorem State.setEvent_toNormal (bit : BitVec 4) : (s.setEvent bit).toNormal = s.toNormal := rfl
@[simp] theorem State.setEvent_toScan (bit : BitVec 4) : (s.setEvent bit).toScan = s.toScan := rfl
@[simp] theorem State.setEvent_guard (bit : BitVec 4) : (s.setEvent bit).guard = s.guard := rfl
@[simp] theorem State.setEvent_guardCnt (bit : BitVec 4) : (s.setEvent bit).guardCnt = s.guardCnt := rfl
@[simp] theorem State.setEvent_tx (bit : BitVec 4) : (s.setEvent bit).tx = s.tx := rfl
@[simp] theorem State.setEvent_rx (bit : BitVec 4) : (s.setEvent bit).rx = s.rx := rfl
@[simp] theorem State.setEvent_med (bit : BitVec 4) : (s.setEvent bit).med = s.med := rfl
@[simp] theorem State.setEvent_ma (bit : BitVec 4) : (s.setEvent bit).ma = s.ma := rfl
@[simp] theorem State.setEvent_mem (bit : BitVec 4) : (s.setEvent bit).mem = s.mem := rfl
@[simp] theorem State.setEvent_powerOns (bit : BitVec 4) : (s.setEvent bit).powerOns = s.powerOns := rfl
@[simp] theorem State.setEvent_pending (bit : BitVec 4) : (s.setEvent bit).pending = s.pending := rfl
@[simp] theorem State.setEvent_hostResp (bit : BitVec 4) : (s.setEvent bit).hostResp = s.hostResp := rfl
@[simp] theorem State.setEvent_txLine (bit : BitVec 4) : (s.setEvent bit).txLine = s.txLine := rfl

@[simp] theorem State.setEvent_byteAt (bit : BitVec 4) (a' : Nat) : (s.setEvent bit).byteAt a' = s.byteAt a' := rfl
@[simp] theorem State.setEvent_txByte (bit : BitVec 4) (i : Nat) : (s.setEvent bit).txByte i = s.txByte i := rfl
@[simp] theorem State.setEvent_rxByte (bit : BitVec 4) (i : Nat) : (s.setEvent bit).rxByte i = s.rxByte i := rfl
@[simp] theorem State.setEvent_txBytes (bit : BitVec 4) (i : Nat) : (s.setEvent bit).txBytes i = s.txBytes i := rfl
@[simp] theorem State.setEvent_rxBytes (bit : BitVec 4) (i : Nat) : (s.setEvent bit).rxBytes i = s.rxBytes i := rfl

/-! ### `State.rejectCommand`: a command rejected -/

@[simp] theorem State.rejectCommand_event (op : Byte) (e : ErrCode) :
    (s.rejectCommand op e).event =
    s.event ||| evCmdErr := rfl
@[simp] theorem State.rejectCommand_irqEn (op : Byte) (e : ErrCode) : (s.rejectCommand op e).irqEn = s.irqEn := rfl
@[simp] theorem State.rejectCommand_err (op : Byte) (e : ErrCode) :
    (s.rejectCommand op e).err =
    op ++ errNumber e := rfl
@[simp] theorem State.rejectCommand_crc (op : Byte) (e : ErrCode) : (s.rejectCommand op e).crc = s.crc := rfl
@[simp] theorem State.rejectCommand_toNormal (op : Byte) (e : ErrCode) :
    (s.rejectCommand op e).toNormal =
    s.toNormal := rfl
@[simp] theorem State.rejectCommand_toScan (op : Byte) (e : ErrCode) : (s.rejectCommand op e).toScan = s.toScan := rfl
@[simp] theorem State.rejectCommand_guard (op : Byte) (e : ErrCode) : (s.rejectCommand op e).guard = s.guard := rfl
@[simp] theorem State.rejectCommand_guardCnt (op : Byte) (e : ErrCode) :
    (s.rejectCommand op e).guardCnt =
    s.guardCnt := rfl
@[simp] theorem State.rejectCommand_tx (op : Byte) (e : ErrCode) : (s.rejectCommand op e).tx = s.tx := rfl
@[simp] theorem State.rejectCommand_rx (op : Byte) (e : ErrCode) : (s.rejectCommand op e).rx = s.rx := rfl
@[simp] theorem State.rejectCommand_med (op : Byte) (e : ErrCode) : (s.rejectCommand op e).med = s.med := rfl
@[simp] theorem State.rejectCommand_ma (op : Byte) (e : ErrCode) : (s.rejectCommand op e).ma = s.ma := rfl
@[simp] theorem State.rejectCommand_mem (op : Byte) (e : ErrCode) : (s.rejectCommand op e).mem = s.mem := rfl
@[simp] theorem State.rejectCommand_powerOns (op : Byte) (e : ErrCode) :
    (s.rejectCommand op e).powerOns =
    s.powerOns := rfl
@[simp] theorem State.rejectCommand_pending (op : Byte) (e : ErrCode) :
    (s.rejectCommand op e).pending =
    s.pending := rfl
@[simp] theorem State.rejectCommand_hostResp (op : Byte) (e : ErrCode) :
    (s.rejectCommand op e).hostResp =
    s.hostResp := rfl
@[simp] theorem State.rejectCommand_txLine (op : Byte) (e : ErrCode) : (s.rejectCommand op e).txLine = s.txLine := rfl

@[simp] theorem State.rejectCommand_byteAt (op : Byte) (e : ErrCode) (a' : Nat) : (s.rejectCommand op e).byteAt a' = s.byteAt a' := rfl
@[simp] theorem State.rejectCommand_txByte (op : Byte) (e : ErrCode) (i : Nat) : (s.rejectCommand op e).txByte i = s.txByte i := rfl
@[simp] theorem State.rejectCommand_rxByte (op : Byte) (e : ErrCode) (i : Nat) : (s.rejectCommand op e).rxByte i = s.rxByte i := rfl
@[simp] theorem State.rejectCommand_txBytes (op : Byte) (e : ErrCode) (i : Nat) : (s.rejectCommand op e).txBytes i = s.txBytes i := rfl
@[simp] theorem State.rejectCommand_rxBytes (op : Byte) (e : ErrCode) (i : Nat) : (s.rejectCommand op e).rxBytes i = s.rxBytes i := rfl

/-! ### `State.ackEvents`: events acknowledged -/

@[simp] theorem State.ackEvents_event (d : Word) : (s.ackEvents d).event = s.event &&& ~~~(d.extractLsb' 0 4) := rfl
@[simp] theorem State.ackEvents_irqEn (d : Word) : (s.ackEvents d).irqEn = s.irqEn := rfl
@[simp] theorem State.ackEvents_err (d : Word) : (s.ackEvents d).err = s.err := rfl
@[simp] theorem State.ackEvents_crc (d : Word) : (s.ackEvents d).crc = s.crc := rfl
@[simp] theorem State.ackEvents_toNormal (d : Word) : (s.ackEvents d).toNormal = s.toNormal := rfl
@[simp] theorem State.ackEvents_toScan (d : Word) : (s.ackEvents d).toScan = s.toScan := rfl
@[simp] theorem State.ackEvents_guard (d : Word) : (s.ackEvents d).guard = s.guard := rfl
@[simp] theorem State.ackEvents_guardCnt (d : Word) : (s.ackEvents d).guardCnt = s.guardCnt := rfl
@[simp] theorem State.ackEvents_tx (d : Word) : (s.ackEvents d).tx = s.tx := rfl
@[simp] theorem State.ackEvents_rx (d : Word) : (s.ackEvents d).rx = s.rx := rfl
@[simp] theorem State.ackEvents_med (d : Word) : (s.ackEvents d).med = s.med := rfl
@[simp] theorem State.ackEvents_ma (d : Word) : (s.ackEvents d).ma = s.ma := rfl
@[simp] theorem State.ackEvents_mem (d : Word) : (s.ackEvents d).mem = s.mem := rfl
@[simp] theorem State.ackEvents_powerOns (d : Word) : (s.ackEvents d).powerOns = s.powerOns := rfl
@[simp] theorem State.ackEvents_pending (d : Word) : (s.ackEvents d).pending = s.pending := rfl
@[simp] theorem State.ackEvents_hostResp (d : Word) : (s.ackEvents d).hostResp = s.hostResp := rfl
@[simp] theorem State.ackEvents_txLine (d : Word) : (s.ackEvents d).txLine = s.txLine := rfl

@[simp] theorem State.ackEvents_byteAt (d : Word) (a' : Nat) : (s.ackEvents d).byteAt a' = s.byteAt a' := rfl
@[simp] theorem State.ackEvents_txByte (d : Word) (i : Nat) : (s.ackEvents d).txByte i = s.txByte i := rfl
@[simp] theorem State.ackEvents_rxByte (d : Word) (i : Nat) : (s.ackEvents d).rxByte i = s.rxByte i := rfl
@[simp] theorem State.ackEvents_txBytes (d : Word) (i : Nat) : (s.ackEvents d).txBytes i = s.txBytes i := rfl
@[simp] theorem State.ackEvents_rxBytes (d : Word) (i : Nat) : (s.ackEvents d).rxBytes i = s.rxBytes i := rfl

/-! ### `State.rxArm`: the receiver armed -/

@[simp] theorem State.rxArm_event (sh : Shape) (sc : Bool) : (s.rxArm sh sc).event = s.event := rfl
@[simp] theorem State.rxArm_irqEn (sh : Shape) (sc : Bool) : (s.rxArm sh sc).irqEn = s.irqEn := rfl
@[simp] theorem State.rxArm_err (sh : Shape) (sc : Bool) : (s.rxArm sh sc).err = s.err := rfl
@[simp] theorem State.rxArm_crc (sh : Shape) (sc : Bool) : (s.rxArm sh sc).crc = s.crc := rfl
@[simp] theorem State.rxArm_toNormal (sh : Shape) (sc : Bool) : (s.rxArm sh sc).toNormal = s.toNormal := rfl
@[simp] theorem State.rxArm_toScan (sh : Shape) (sc : Bool) : (s.rxArm sh sc).toScan = s.toScan := rfl
@[simp] theorem State.rxArm_guard (sh : Shape) (sc : Bool) : (s.rxArm sh sc).guard = s.guard := rfl
@[simp] theorem State.rxArm_guardCnt (sh : Shape) (sc : Bool) : (s.rxArm sh sc).guardCnt = s.guardCnt := rfl
@[simp] theorem State.rxArm_tx (sh : Shape) (sc : Bool) : (s.rxArm sh sc).tx = s.tx := rfl
@[simp] theorem State.rxArm_rx (sh : Shape) (sc : Bool) :
    (s.rxArm sh sc).rx =
    { s.rx with
      shape := sh, scan := sc, state := .waitAddress, len := 0#9, expect := armExpect sh, crcCalc := 0#16,
      crcRecv := 0#16, timer := s.timeoutFor sc } := rfl
@[simp] theorem State.rxArm_med (sh : Shape) (sc : Bool) : (s.rxArm sh sc).med = s.med := rfl
@[simp] theorem State.rxArm_ma (sh : Shape) (sc : Bool) : (s.rxArm sh sc).ma = s.ma := rfl
@[simp] theorem State.rxArm_mem (sh : Shape) (sc : Bool) : (s.rxArm sh sc).mem = s.mem := rfl
@[simp] theorem State.rxArm_powerOns (sh : Shape) (sc : Bool) : (s.rxArm sh sc).powerOns = s.powerOns := rfl
@[simp] theorem State.rxArm_pending (sh : Shape) (sc : Bool) : (s.rxArm sh sc).pending = s.pending := rfl
@[simp] theorem State.rxArm_hostResp (sh : Shape) (sc : Bool) : (s.rxArm sh sc).hostResp = s.hostResp := rfl
@[simp] theorem State.rxArm_txLine (sh : Shape) (sc : Bool) : (s.rxArm sh sc).txLine = s.txLine := rfl

@[simp] theorem State.rxArm_byteAt (sh : Shape) (sc : Bool) (a' : Nat) : (s.rxArm sh sc).byteAt a' = s.byteAt a' := rfl
@[simp] theorem State.rxArm_txByte (sh : Shape) (sc : Bool) (i : Nat) : (s.rxArm sh sc).txByte i = s.txByte i := rfl
@[simp] theorem State.rxArm_rxByte (sh : Shape) (sc : Bool) (i : Nat) : (s.rxArm sh sc).rxByte i = s.rxByte i := rfl
@[simp] theorem State.rxArm_txBytes (sh : Shape) (sc : Bool) (i : Nat) : (s.rxArm sh sc).txBytes i = s.txBytes i := rfl
@[simp] theorem State.rxArm_rxBytes (sh : Shape) (sc : Bool) (i : Nat) : (s.rxArm sh sc).rxBytes i = s.rxBytes i := rfl

/-! ### `State.rxFinish`: a receive ended -/

@[simp] theorem State.rxFinish_event (st : RxState) : (s.rxFinish st).event = s.event ||| evRxDone := rfl
@[simp] theorem State.rxFinish_irqEn (st : RxState) : (s.rxFinish st).irqEn = s.irqEn := rfl
@[simp] theorem State.rxFinish_err (st : RxState) : (s.rxFinish st).err = s.err := rfl
@[simp] theorem State.rxFinish_crc (st : RxState) : (s.rxFinish st).crc = s.crc := rfl
@[simp] theorem State.rxFinish_toNormal (st : RxState) : (s.rxFinish st).toNormal = s.toNormal := rfl
@[simp] theorem State.rxFinish_toScan (st : RxState) : (s.rxFinish st).toScan = s.toScan := rfl
@[simp] theorem State.rxFinish_guard (st : RxState) : (s.rxFinish st).guard = s.guard := rfl
@[simp] theorem State.rxFinish_guardCnt (st : RxState) :
    (s.rxFinish st).guardCnt =
    if st = .complete then s.guard else s.guardCnt := rfl
@[simp] theorem State.rxFinish_tx (st : RxState) : (s.rxFinish st).tx = s.tx := rfl
@[simp] theorem State.rxFinish_rx (st : RxState) : (s.rxFinish st).rx = { s.rx with state := st, timer := 0#16 } := rfl
@[simp] theorem State.rxFinish_med (st : RxState) : (s.rxFinish st).med = s.med := rfl
@[simp] theorem State.rxFinish_ma (st : RxState) : (s.rxFinish st).ma = s.ma := rfl
@[simp] theorem State.rxFinish_mem (st : RxState) : (s.rxFinish st).mem = s.mem := rfl
@[simp] theorem State.rxFinish_powerOns (st : RxState) : (s.rxFinish st).powerOns = s.powerOns := rfl
@[simp] theorem State.rxFinish_pending (st : RxState) : (s.rxFinish st).pending = s.pending := rfl
@[simp] theorem State.rxFinish_hostResp (st : RxState) : (s.rxFinish st).hostResp = s.hostResp := rfl
@[simp] theorem State.rxFinish_txLine (st : RxState) : (s.rxFinish st).txLine = s.txLine := rfl

@[simp] theorem State.rxFinish_byteAt (st : RxState) (a' : Nat) : (s.rxFinish st).byteAt a' = s.byteAt a' := rfl
@[simp] theorem State.rxFinish_txByte (st : RxState) (i : Nat) : (s.rxFinish st).txByte i = s.txByte i := rfl
@[simp] theorem State.rxFinish_rxByte (st : RxState) (i : Nat) : (s.rxFinish st).rxByte i = s.rxByte i := rfl
@[simp] theorem State.rxFinish_txBytes (st : RxState) (i : Nat) : (s.rxFinish st).txBytes i = s.txBytes i := rfl
@[simp] theorem State.rxFinish_rxBytes (st : RxState) (i : Nat) : (s.rxFinish st).rxBytes i = s.rxBytes i := rfl

/-! ### `State.noteVerdict`: a frame check noted -/

@[simp] theorem State.noteVerdict_event (v : FrameVerdict) : (s.noteVerdict v).event = s.event := rfl
@[simp] theorem State.noteVerdict_irqEn (v : FrameVerdict) : (s.noteVerdict v).irqEn = s.irqEn := rfl
@[simp] theorem State.noteVerdict_err (v : FrameVerdict) : (s.noteVerdict v).err = s.err := rfl
@[simp] theorem State.noteVerdict_crc (v : FrameVerdict) : (s.noteVerdict v).crc = s.crc := rfl
@[simp] theorem State.noteVerdict_toNormal (v : FrameVerdict) : (s.noteVerdict v).toNormal = s.toNormal := rfl
@[simp] theorem State.noteVerdict_toScan (v : FrameVerdict) : (s.noteVerdict v).toScan = s.toScan := rfl
@[simp] theorem State.noteVerdict_guard (v : FrameVerdict) : (s.noteVerdict v).guard = s.guard := rfl
@[simp] theorem State.noteVerdict_guardCnt (v : FrameVerdict) : (s.noteVerdict v).guardCnt = s.guardCnt := rfl
@[simp] theorem State.noteVerdict_tx (v : FrameVerdict) : (s.noteVerdict v).tx = s.tx := rfl
@[simp] theorem State.noteVerdict_rx (v : FrameVerdict) :
    (s.noteVerdict v).rx =
    { s.rx with expect := v.expect, crcCalc := v.crcCalc, crcRecv := v.crcRecv } := rfl
@[simp] theorem State.noteVerdict_med (v : FrameVerdict) : (s.noteVerdict v).med = s.med := rfl
@[simp] theorem State.noteVerdict_ma (v : FrameVerdict) : (s.noteVerdict v).ma = s.ma := rfl
@[simp] theorem State.noteVerdict_mem (v : FrameVerdict) : (s.noteVerdict v).mem = s.mem := rfl
@[simp] theorem State.noteVerdict_powerOns (v : FrameVerdict) : (s.noteVerdict v).powerOns = s.powerOns := rfl
@[simp] theorem State.noteVerdict_pending (v : FrameVerdict) : (s.noteVerdict v).pending = s.pending := rfl
@[simp] theorem State.noteVerdict_hostResp (v : FrameVerdict) : (s.noteVerdict v).hostResp = s.hostResp := rfl
@[simp] theorem State.noteVerdict_txLine (v : FrameVerdict) : (s.noteVerdict v).txLine = s.txLine := rfl

@[simp] theorem State.noteVerdict_byteAt (v : FrameVerdict) (a' : Nat) : (s.noteVerdict v).byteAt a' = s.byteAt a' := rfl
@[simp] theorem State.noteVerdict_txByte (v : FrameVerdict) (i : Nat) : (s.noteVerdict v).txByte i = s.txByte i := rfl
@[simp] theorem State.noteVerdict_rxByte (v : FrameVerdict) (i : Nat) : (s.noteVerdict v).rxByte i = s.rxByte i := rfl
@[simp] theorem State.noteVerdict_txBytes (v : FrameVerdict) (i : Nat) : (s.noteVerdict v).txBytes i = s.txBytes i := rfl
@[simp] theorem State.noteVerdict_rxBytes (v : FrameVerdict) (i : Nat) : (s.noteVerdict v).rxBytes i = s.rxBytes i := rfl

/-! ### `State.setByte`: a buffer byte set -/

@[simp] theorem State.setByte_event (a : Nat) (v : Byte) : (s.setByte a v).event = s.event := rfl
@[simp] theorem State.setByte_irqEn (a : Nat) (v : Byte) : (s.setByte a v).irqEn = s.irqEn := rfl
@[simp] theorem State.setByte_err (a : Nat) (v : Byte) : (s.setByte a v).err = s.err := rfl
@[simp] theorem State.setByte_crc (a : Nat) (v : Byte) : (s.setByte a v).crc = s.crc := rfl
@[simp] theorem State.setByte_toNormal (a : Nat) (v : Byte) : (s.setByte a v).toNormal = s.toNormal := rfl
@[simp] theorem State.setByte_toScan (a : Nat) (v : Byte) : (s.setByte a v).toScan = s.toScan := rfl
@[simp] theorem State.setByte_guard (a : Nat) (v : Byte) : (s.setByte a v).guard = s.guard := rfl
@[simp] theorem State.setByte_guardCnt (a : Nat) (v : Byte) : (s.setByte a v).guardCnt = s.guardCnt := rfl
@[simp] theorem State.setByte_tx (a : Nat) (v : Byte) : (s.setByte a v).tx = s.tx := rfl
@[simp] theorem State.setByte_rx (a : Nat) (v : Byte) : (s.setByte a v).rx = s.rx := rfl
@[simp] theorem State.setByte_med (a : Nat) (v : Byte) : (s.setByte a v).med = s.med := rfl
@[simp] theorem State.setByte_ma (a : Nat) (v : Byte) : (s.setByte a v).ma = s.ma := rfl
@[simp] theorem State.setByte_mem (a : Nat) (v : Byte) : (s.setByte a v).mem = Memory.write s.mem a v := rfl
@[simp] theorem State.setByte_powerOns (a : Nat) (v : Byte) : (s.setByte a v).powerOns = s.powerOns := rfl
@[simp] theorem State.setByte_pending (a : Nat) (v : Byte) : (s.setByte a v).pending = s.pending := rfl
@[simp] theorem State.setByte_hostResp (a : Nat) (v : Byte) : (s.setByte a v).hostResp = s.hostResp := rfl
@[simp] theorem State.setByte_txLine (a : Nat) (v : Byte) : (s.setByte a v).txLine = s.txLine := rfl


/-! ### `State.setWord`: a buffer word set -/

@[simp] theorem State.setWord_event (a : Nat) (d : Word) : (s.setWord a d).event = s.event := rfl
@[simp] theorem State.setWord_irqEn (a : Nat) (d : Word) : (s.setWord a d).irqEn = s.irqEn := rfl
@[simp] theorem State.setWord_err (a : Nat) (d : Word) : (s.setWord a d).err = s.err := rfl
@[simp] theorem State.setWord_crc (a : Nat) (d : Word) : (s.setWord a d).crc = s.crc := rfl
@[simp] theorem State.setWord_toNormal (a : Nat) (d : Word) : (s.setWord a d).toNormal = s.toNormal := rfl
@[simp] theorem State.setWord_toScan (a : Nat) (d : Word) : (s.setWord a d).toScan = s.toScan := rfl
@[simp] theorem State.setWord_guard (a : Nat) (d : Word) : (s.setWord a d).guard = s.guard := rfl
@[simp] theorem State.setWord_guardCnt (a : Nat) (d : Word) : (s.setWord a d).guardCnt = s.guardCnt := rfl
@[simp] theorem State.setWord_tx (a : Nat) (d : Word) : (s.setWord a d).tx = s.tx := rfl
@[simp] theorem State.setWord_rx (a : Nat) (d : Word) : (s.setWord a d).rx = s.rx := rfl
@[simp] theorem State.setWord_med (a : Nat) (d : Word) : (s.setWord a d).med = s.med := rfl
@[simp] theorem State.setWord_ma (a : Nat) (d : Word) : (s.setWord a d).ma = s.ma := rfl
@[simp] theorem State.setWord_mem (a : Nat) (d : Word) :
    (s.setWord a d).mem =
    Memory.write (Memory.write (Memory.write (Memory.write s.mem a (d.extractLsb' 0 8)) (a + 1)
      (d.extractLsb' 8 8)) (a + 2) (d.extractLsb' 16 8)) (a + 3) (d.extractLsb' 24 8) := rfl
@[simp] theorem State.setWord_powerOns (a : Nat) (d : Word) : (s.setWord a d).powerOns = s.powerOns := rfl
@[simp] theorem State.setWord_pending (a : Nat) (d : Word) : (s.setWord a d).pending = s.pending := rfl
@[simp] theorem State.setWord_hostResp (a : Nat) (d : Word) : (s.setWord a d).hostResp = s.hostResp := rfl
@[simp] theorem State.setWord_txLine (a : Nat) (d : Word) : (s.setWord a d).txLine = s.txLine := rfl


/-! ### `State.answer`: the bus's answer noted -/

@[simp] theorem State.answer_event (r : HostResp) : (s.answer r).event = s.event := rfl
@[simp] theorem State.answer_irqEn (r : HostResp) : (s.answer r).irqEn = s.irqEn := rfl
@[simp] theorem State.answer_err (r : HostResp) : (s.answer r).err = s.err := rfl
@[simp] theorem State.answer_crc (r : HostResp) : (s.answer r).crc = s.crc := rfl
@[simp] theorem State.answer_toNormal (r : HostResp) : (s.answer r).toNormal = s.toNormal := rfl
@[simp] theorem State.answer_toScan (r : HostResp) : (s.answer r).toScan = s.toScan := rfl
@[simp] theorem State.answer_guard (r : HostResp) : (s.answer r).guard = s.guard := rfl
@[simp] theorem State.answer_guardCnt (r : HostResp) : (s.answer r).guardCnt = s.guardCnt := rfl
@[simp] theorem State.answer_tx (r : HostResp) : (s.answer r).tx = s.tx := rfl
@[simp] theorem State.answer_rx (r : HostResp) : (s.answer r).rx = s.rx := rfl
@[simp] theorem State.answer_med (r : HostResp) : (s.answer r).med = s.med := rfl
@[simp] theorem State.answer_ma (r : HostResp) : (s.answer r).ma = s.ma := rfl
@[simp] theorem State.answer_mem (r : HostResp) : (s.answer r).mem = s.mem := rfl
@[simp] theorem State.answer_powerOns (r : HostResp) : (s.answer r).powerOns = s.powerOns := rfl
@[simp] theorem State.answer_pending (r : HostResp) : (s.answer r).pending = s.pending := rfl
@[simp] theorem State.answer_hostResp (r : HostResp) : (s.answer r).hostResp = r := rfl
@[simp] theorem State.answer_txLine (r : HostResp) : (s.answer r).txLine = s.txLine := rfl

@[simp] theorem State.answer_byteAt (r : HostResp) (a' : Nat) : (s.answer r).byteAt a' = s.byteAt a' := rfl
@[simp] theorem State.answer_txByte (r : HostResp) (i : Nat) : (s.answer r).txByte i = s.txByte i := rfl
@[simp] theorem State.answer_rxByte (r : HostResp) (i : Nat) : (s.answer r).rxByte i = s.rxByte i := rfl
@[simp] theorem State.answer_txBytes (r : HostResp) (i : Nat) : (s.answer r).txBytes i = s.txBytes i := rfl
@[simp] theorem State.answer_rxBytes (r : HostResp) (i : Nat) : (s.answer r).rxBytes i = s.rxBytes i := rfl

/-! ### `State.storeReceived`: a received byte stored -/

@[simp] theorem State.storeReceived_event (b : Byte) : (s.storeReceived b).event = s.event := rfl
@[simp] theorem State.storeReceived_irqEn (b : Byte) : (s.storeReceived b).irqEn = s.irqEn := rfl
@[simp] theorem State.storeReceived_err (b : Byte) : (s.storeReceived b).err = s.err := rfl
@[simp] theorem State.storeReceived_crc (b : Byte) : (s.storeReceived b).crc = s.crc := rfl
@[simp] theorem State.storeReceived_toNormal (b : Byte) : (s.storeReceived b).toNormal = s.toNormal := rfl
@[simp] theorem State.storeReceived_toScan (b : Byte) : (s.storeReceived b).toScan = s.toScan := rfl
@[simp] theorem State.storeReceived_guard (b : Byte) : (s.storeReceived b).guard = s.guard := rfl
@[simp] theorem State.storeReceived_guardCnt (b : Byte) : (s.storeReceived b).guardCnt = s.guardCnt := rfl
@[simp] theorem State.storeReceived_tx (b : Byte) : (s.storeReceived b).tx = s.tx := rfl
@[simp] theorem State.storeReceived_rx (b : Byte) : (s.storeReceived b).rx = { s.rx with len := s.rx.len + 1#9 } := rfl
@[simp] theorem State.storeReceived_med (b : Byte) : (s.storeReceived b).med = s.med := rfl
@[simp] theorem State.storeReceived_ma (b : Byte) : (s.storeReceived b).ma = s.ma := rfl
@[simp] theorem State.storeReceived_mem (b : Byte) :
    (s.storeReceived b).mem =
    Memory.write s.mem (rxAddr s.rx.len.toNat) b := rfl
@[simp] theorem State.storeReceived_powerOns (b : Byte) : (s.storeReceived b).powerOns = s.powerOns := rfl
@[simp] theorem State.storeReceived_pending (b : Byte) : (s.storeReceived b).pending = s.pending := rfl
@[simp] theorem State.storeReceived_hostResp (b : Byte) : (s.storeReceived b).hostResp = s.hostResp := rfl
@[simp] theorem State.storeReceived_txLine (b : Byte) : (s.storeReceived b).txLine = s.txLine := rfl


/-! ### `State.softReset`: SOFT_RESET -/

@[simp] theorem State.softReset_event : (s.softReset).event = State.reset.event := rfl
@[simp] theorem State.softReset_irqEn : (s.softReset).irqEn = State.reset.irqEn := rfl
@[simp] theorem State.softReset_err : (s.softReset).err = State.reset.err := rfl
@[simp] theorem State.softReset_crc : (s.softReset).crc = State.reset.crc := rfl
@[simp] theorem State.softReset_toNormal : (s.softReset).toNormal = State.reset.toNormal := rfl
@[simp] theorem State.softReset_toScan : (s.softReset).toScan = State.reset.toScan := rfl
@[simp] theorem State.softReset_guard : (s.softReset).guard = State.reset.guard := rfl
@[simp] theorem State.softReset_guardCnt : (s.softReset).guardCnt = State.reset.guardCnt := rfl
@[simp] theorem State.softReset_tx : (s.softReset).tx = State.reset.tx := rfl
@[simp] theorem State.softReset_rx : (s.softReset).rx = State.reset.rx := rfl
@[simp] theorem State.softReset_med : (s.softReset).med = { State.reset.med with ring := s.med.ring } := rfl
@[simp] theorem State.softReset_ma : (s.softReset).ma = { State.reset.ma with ring := s.ma.ring } := rfl
@[simp] theorem State.softReset_mem : (s.softReset).mem = s.mem := rfl
@[simp] theorem State.softReset_powerOns : (s.softReset).powerOns = s.powerOns := rfl
@[simp] theorem State.softReset_pending : (s.softReset).pending = s.pending := rfl
@[simp] theorem State.softReset_hostResp : (s.softReset).hostResp = s.hostResp := rfl
@[simp] theorem State.softReset_txLine : (s.softReset).txLine = s.txLine := rfl

@[simp] theorem State.softReset_byteAt (a' : Nat) : (s.softReset).byteAt a' = s.byteAt a' := rfl
@[simp] theorem State.softReset_txByte (i : Nat) : (s.softReset).txByte i = s.txByte i := rfl
@[simp] theorem State.softReset_rxByte (i : Nat) : (s.softReset).rxByte i = s.rxByte i := rfl
@[simp] theorem State.softReset_txBytes (i : Nat) : (s.softReset).txBytes i = s.txBytes i := rfl
@[simp] theorem State.softReset_rxBytes (i : Nat) : (s.softReset).rxBytes i = s.rxBytes i := rfl

/-! ### `State.powerOnReset`: Reset -/

@[simp] theorem State.powerOnReset_event : (s.powerOnReset).event = State.reset.event := rfl
@[simp] theorem State.powerOnReset_irqEn : (s.powerOnReset).irqEn = State.reset.irqEn := rfl
@[simp] theorem State.powerOnReset_err : (s.powerOnReset).err = State.reset.err := rfl
@[simp] theorem State.powerOnReset_crc : (s.powerOnReset).crc = State.reset.crc := rfl
@[simp] theorem State.powerOnReset_toNormal : (s.powerOnReset).toNormal = State.reset.toNormal := rfl
@[simp] theorem State.powerOnReset_toScan : (s.powerOnReset).toScan = State.reset.toScan := rfl
@[simp] theorem State.powerOnReset_guard : (s.powerOnReset).guard = State.reset.guard := rfl
@[simp] theorem State.powerOnReset_guardCnt : (s.powerOnReset).guardCnt = State.reset.guardCnt := rfl
@[simp] theorem State.powerOnReset_tx : (s.powerOnReset).tx = State.reset.tx := rfl
@[simp] theorem State.powerOnReset_rx : (s.powerOnReset).rx = State.reset.rx := rfl
@[simp] theorem State.powerOnReset_med : (s.powerOnReset).med = State.reset.med := rfl
@[simp] theorem State.powerOnReset_ma : (s.powerOnReset).ma = State.reset.ma := rfl
@[simp] theorem State.powerOnReset_mem : (s.powerOnReset).mem = State.reset.mem := rfl
@[simp] theorem State.powerOnReset_powerOns : (s.powerOnReset).powerOns = s.powerOns + 1 := rfl
@[simp] theorem State.powerOnReset_pending : (s.powerOnReset).pending = s.pending := rfl
@[simp] theorem State.powerOnReset_hostResp : (s.powerOnReset).hostResp = s.hostResp := rfl
@[simp] theorem State.powerOnReset_txLine : (s.powerOnReset).txLine = s.txLine := rfl


end Sys2Proof.Machine
end

