-- ==== Sys2Proof/Laws/Memory.lean ====
section
/-! SUPPORT. Laws/Memory.lean: what one buffer write does to every read, that it keeps the canonical form, and that
canonical memories with the same cells are the same data (20_memory.md R93, log 1). -/

namespace Sys2Proof.Machine

@[simp] theorem Memory.read_nil (a : Nat) : Memory.read [] a = none := rfl

@[simp] theorem Memory.read_cons (c : Host.Cell) (m : Memory) (a : Nat) :
    Memory.read (c :: m) a = if a = c.1 then some c.2 else Memory.read m a := rfl

/-- A read after a write: the written cell gives the written byte, every other cell what it gave before. -/
theorem Memory.read_write (m : Memory) (a b : Nat) (v : Byte) :
    Memory.read (Memory.write m a v) b = if b = a then some v else Memory.read m b := by
  induction m with
  | nil => simp [Memory.write]
  | cons c rest ih =>
    obtain ⟨d, w⟩ := c
    simp only [Memory.write]
    split
    · simp
    · split
      · subst_vars
        by_cases h : b = d <;> simp [h]
      · by_cases h : b = d
        · have : b ≠ a := fun e => ‹¬a = d› (e ▸ h)
          simp [h, Ne.symm ‹¬a = d›]
        · simp [h, ih]

/-- An address a write lists is the written one or one listed before. -/
theorem Memory.mem_write {m : Memory} {a : Nat} {v : Byte} {c : Host.Cell} (h : c ∈ Memory.write m a v) :
    c = (a, v) ∨ c ∈ m := by
  induction m with
  | nil => simpa [Memory.write] using h
  | cons d rest ih =>
    simp only [Memory.write] at h
    split at h
    · simpa using h
    · split at h
      · rcases List.mem_cons.mp h with h | h
        · exact .inl h
        · exact .inr (List.mem_cons_of_mem _ h)
      · rcases List.mem_cons.mp h with h | h
        · exact .inr (h ▸ List.mem_cons_self)
        · exact (ih h).imp id (List.mem_cons_of_mem _)

/-- A write of a buffer byte keeps the canonical form. -/
theorem Memory.write_wf {m : Memory} {a : Nat} (v : Byte) (hm : Memory.wf m) (ha : bufferAddress a) :
    Memory.wf (Memory.write m a v) := by
  refine ⟨?_, fun c hc => (Memory.mem_write hc).elim (fun h => h ▸ ha) (hm.2 c)⟩
  have hp := hm.1
  clear hm
  induction m with
  | nil => simp [Memory.write]
  | cons d rest ih =>
    obtain ⟨hd, hr⟩ := List.pairwise_cons.mp hp
    simp only [Memory.write]
    split
    · refine List.pairwise_cons.mpr ⟨fun c hc => ?_, hp⟩
      rcases List.mem_cons.mp hc with rfl | hc
      · assumption
      · exact Nat.lt_trans ‹_› (hd c hc)
    · split
      · exact List.pairwise_cons.mpr ⟨fun c hc => by have := hd c hc; simp_all, hr⟩
      · refine List.pairwise_cons.mpr ⟨fun c hc => ?_, ih hr⟩
        rcases Memory.mem_write hc with rfl | hc
        · simp only
          omega
        · exact hd c hc

/-- The memory of State.reset has the canonical form: nothing is listed. -/
theorem State.reset_wf : Memory.wf State.reset.mem := ⟨List.Pairwise.nil, fun _ h => nomatch h⟩

/-- Setting a buffer byte keeps the canonical form. -/
theorem State.setByte_wf {s : State} {a : Nat} (v : Byte) (h : Memory.wf s.mem) (ha : bufferAddress a) :
    Memory.wf (s.setByte a v).mem := Memory.write_wf v h ha

/-- Setting a buffer word keeps the canonical form. -/
theorem State.setWord_wf {s : State} {a : Nat} (d : Word) (h : Memory.wf s.mem) (h0 : bufferAddress a)
    (h1 : bufferAddress (a + 1)) (h2 : bufferAddress (a + 2)) (h3 : bufferAddress (a + 3)) :
    Memory.wf (s.setWord a d).mem :=
  Memory.write_wf _ (Memory.write_wf _ (Memory.write_wf _ (Memory.write_wf _ h h0) h1) h2) h3

theorem Memory.nil_wf : Memory.wf [] := ⟨List.Pairwise.nil, fun _ h => nomatch h⟩

/-- Below every listed address nothing is listed. -/
theorem Memory.read_of_lt {m : Memory} {a : Nat} (h : ∀ c ∈ m, a < c.1) : Memory.read m a = none := by
  induction m with
  | nil => rfl
  | cons c rest ih =>
    have := h c List.mem_cons_self
    rw [Memory.read_cons, if_neg (by omega)]
    exact ih fun d hd => h d (List.mem_cons_of_mem _ hd)

/-- Canonical memories that read alike are the same list. -/
theorem Memory.ext_of_wf {m n : Memory} (hmwf : Memory.wf m) (hnwf : Memory.wf n)
    (h : ∀ a, Memory.read m a = Memory.read n a) : m = n := by
  have hm := hmwf.1
  have hn := hnwf.1
  clear hmwf hnwf
  induction m generalizing n with
  | nil =>
    cases n with
    | nil => rfl
    | cons d _ => simpa using h d.1
  | cons c m ih =>
    obtain ⟨hc, hm⟩ := List.pairwise_cons.mp hm
    cases n with
    | nil => simpa using h c.1
    | cons d n =>
      obtain ⟨hd, hn⟩ := List.pairwise_cons.mp hn
      have hcd : c.1 = d.1 := by
        rcases Nat.lt_trichotomy c.1 d.1 with hlt | heq | hlt
        · have := h c.1
          rw [Memory.read_of_lt (m := d :: n) (fun e he => ?_)] at this
          · simp at this
          · rcases List.mem_cons.mp he with rfl | he
            · exact hlt
            · exact Nat.lt_trans hlt (hd e he)
        · exact heq
        · have := h d.1
          rw [Memory.read_of_lt (m := c :: m) (fun e he => ?_)] at this
          · simp at this
          · rcases List.mem_cons.mp he with rfl | he
            · exact hlt
            · exact Nat.lt_trans hlt (hc e he)
      have hv : c.2 = d.2 := by simpa [hcd] using h c.1
      refine List.cons_eq_cons.mpr ⟨Prod.ext hcd hv, ih (fun a => ?_) hm hn⟩
      by_cases ha : a = c.1
      · rw [Memory.read_of_lt (fun e he => ha ▸ hc e he), Memory.read_of_lt (fun e he => ha ▸ hcd ▸ hd e he)]
      · simpa [ha, hcd ▸ ha] using h a

/-- A byte read after a byte is set. -/
theorem State.byteAt_setByte (s : State) (a b : Nat) (v : Byte) :
    (s.setByte a v).byteAt b = if b = a then v else s.byteAt b := by
  unfold State.byteAt
  rw [State.setByte_mem, Memory.read_write]
  split <;> rfl

/-- Two states with the same cells after the same Reset read the same bytes. -/
theorem State.byteAt_congr {s t : State} (hm : s.mem = t.mem) (hp : s.powerOns = t.powerOns) (a : Nat) :
    s.byteAt a = t.byteAt a := by
  unfold State.byteAt
  rw [hm, hp]

/-- A byte read after a word is set: byte `j` of the word at `a + j`, every other byte as before (20_memory.md R93). -/
theorem State.byteAt_setWord (s : State) (a b : Nat) (d : Word) :
    (s.setWord a d).byteAt b =
      if b = a + 3 then d.extractLsb' 24 8 else if b = a + 2 then d.extractLsb' 16 8
      else if b = a + 1 then d.extractLsb' 8 8 else if b = a then d.extractLsb' 0 8 else s.byteAt b := by
  simp only [State.setWord, State.byteAt_setByte]

/-- The bytes of a TXBUF prefix, one by one. -/
theorem State.txBytes_getElem? (s : State) (n i : Nat) :
    (s.txBytes n)[i]? = if i < n then some (s.txByte i) else none := by
  unfold State.txBytes
  split <;> simp [*]

/-- The bytes of an RXBUF prefix, one by one. -/
theorem State.rxBytes_getElem? (s : State) (n i : Nat) :
    (s.rxBytes n)[i]? = if i < n then some (s.rxByte i) else none := by
  unfold State.rxBytes
  split <;> simp [*]

@[simp] theorem State.txBytes_length (s : State) (n : Nat) : (s.txBytes n).length = n := by simp [State.txBytes]

@[simp] theorem State.rxBytes_length (s : State) (n : Nat) : (s.rxBytes n).length = n := by simp [State.rxBytes]

/-- A prefix of an RXBUF prefix. -/
theorem State.rxBytes_take (s : State) {k n : Nat} (h : k ≤ n) : (s.rxBytes n).take k = s.rxBytes k := by
  simp [State.rxBytes, List.take_range, Nat.min_eq_left h, ← List.map_take]

end Sys2Proof.Machine
end

