-- ==== Sys2Proof/Laws/Ops.lean ====
section
/-! SUPPORT. Laws/Ops.lean: what each shared operation can do, said once: the frame check (42_codec.md R210), the CRC
over concatenations (41_crc.md R185), the armed receiver, the receive states. -/

namespace Sys2Proof.Machine

/-! ### Receive states -/

@[simp] theorem RxState.waiting_idle : RxState.idle.waiting = false := rfl
@[simp] theorem RxState.waiting_waitAddress : RxState.waitAddress.waiting = true := rfl
@[simp] theorem RxState.waiting_waitHeader : RxState.waitHeader.waiting = true := rfl
@[simp] theorem RxState.waiting_waitBody : RxState.waitBody.waiting = true := rfl
@[simp] theorem RxState.waiting_complete : RxState.complete.waiting = false := rfl
@[simp] theorem RxState.waiting_timeout : RxState.timeout.waiting = false := rfl
@[simp] theorem RxState.waiting_framingError : RxState.framingError.waiting = false := rfl
@[simp] theorem RxState.waiting_crcError : RxState.crcError.waiting = false := rfl

/-- A waiting state is one of the three (10_state.md R34). -/
theorem RxState.waiting_cases {r : RxState} (h : r.waiting = true) :
    r = .waitAddress ∨ r = .waitHeader ∨ r = .waitBody := by
  cases r <;> simp_all

/-- A terminal state is not waiting (00_scope.md R15). -/
theorem RxState.waiting_of_terminal {r : RxState} (h : r.terminal = true) : r.waiting = false := by
  cases r <;> simp_all [RxState.terminal]

/-- The receiver is free exactly when it neither waits nor has an XACT pending. -/
theorem State.rxBusy_eq_false {s : State} : s.rxBusy = false ↔ s.rx.state.waiting = false ∧ s.rx.xactPend = false := by
  simp [State.rxBusy]

theorem State.rxBusy_eq_true {s : State} : s.rxBusy = true ↔ s.rx.state.waiting = true ∨ s.rx.xactPend = true := by
  simp [State.rxBusy]

/-! ### CRC -/

@[simp] theorem crcFold_nil (c : Half) : crcFold c [] = c := rfl

@[simp] theorem crcFold_cons (c : Half) (b : Byte) (bs : List Byte) : crcFold c (b :: bs) = crcFold (crcStep c b) bs := rfl

/-- A CRC is continued byte by byte (41_crc.md R185). -/
theorem crcFold_append (c : Half) (as bs : List Byte) : crcFold c (as ++ bs) = crcFold (crcFold c as) bs := by
  simp [crcFold]

/-! ### Frames -/

/-- Shape A's length of the bytes in RXBUF fits when the byte count is there, small enough and says so (R132). -/
theorem fitsShape_a_rxBytes (s : State) (len : Nat) :
    fitsShape .a (s.rxBytes len) ↔ 3 ≤ len ∧ (s.rxByte 2).toNat ≤ 252 ∧ len = (s.rxByte 2).toNat + 5 := by
  simp only [fitsShape, State.rxBytes_getElem?, State.rxBytes_length]
  constructor
  · rintro ⟨bc, h, hle, hlen⟩
    split at h
    · cases h
      exact ⟨by omega, hle, hlen⟩
    · cases h
  · rintro ⟨h3, hle, hlen⟩
    exact ⟨s.rxByte 2, by rw [if_pos (by omega)], hle, hlen⟩

theorem fitsShape_b_rxBytes (s : State) (len : Nat) : fitsShape .b (s.rxBytes len) ↔ len = 8 := by
  simp [fitsShape]

/-- The computed CRC of an RXBUF prefix leaves its last two bytes out. -/
theorem computedCrc_rxBytes (s : State) (len : Nat) : computedCrc (s.rxBytes len) = crc16 (s.rxBytes (len - 2)) := by
  rw [computedCrc, State.rxBytes_length, State.rxBytes_take s (Nat.sub_le len 2)]

/-- The carried CRC of an RXBUF prefix is its last two bytes. -/
theorem carriedCrc_rxBytes (s : State) {len : Nat} (h : 2 ≤ len) :
    carriedCrc (s.rxBytes len) = crcOfBytes (s.rxByte (len - 2)) (s.rxByte (len - 1)) := by
  simp only [carriedCrc, State.rxBytes_length, List.getD_eq_getElem?_getD, State.rxBytes_getElem?]
  rw [if_pos (by omega), if_pos (by omega)]
  rfl

/-- The length a shape gives is the actual one exactly when the bytes fit the shape. -/
theorem State.frameLength_eq_len (s : State) (sh : Shape) (len : Nat) :
    s.frameLength sh len = some len ↔ fitsShape sh (s.rxBytes len) := by
  cases sh
  · rw [fitsShape_a_rxBytes]
    simp only [State.frameLength, Config.byteCountMax]
    constructor
    · intro h
      split at h
      · cases h
      · split at h
        · cases h
        · simp only [Option.some.injEq] at h
          omega
    · rintro ⟨h3, hle, hlen⟩
      rw [if_neg (by omega), if_neg (by omega), ← hlen]
  · rw [fitsShape_b_rxBytes]
    simp only [State.frameLength, Config.shapeBLen, Option.some.injEq]
    exact eq_comm

/-- A frame check on bytes that fit the shape: the outcome is the comparison of the two CRCs (42_codec.md R210). -/
theorem State.frameCheck_of_fits {s : State} {sh : Shape} {len : Nat} (h : fitsShape sh (s.rxBytes len)) :
    s.frameCheck sh len =
      { state := if computedCrc (s.rxBytes len) = carriedCrc (s.rxBytes len) then .complete else .crcError
        expect := BitVec.ofNat 9 len
        crcCalc := computedCrc (s.rxBytes len)
        crcRecv := carriedCrc (s.rxBytes len) } := by
  have h2 : 2 ≤ len := by
    cases sh
    · have := (fitsShape_a_rxBytes s len).mp h
      omega
    · have := (fitsShape_b_rxBytes s len).mp h
      omega
  have hl := (State.frameLength_eq_len s sh len).mpr h
  simp only [State.frameCheck, hl]
  rw [if_neg (by simp), computedCrc_rxBytes, carriedCrc_rxBytes s h2]

/-- A frame check on bytes that do not fit the shape: FRAMING_ERROR and no CRC; the expected length is 8 for shape B,
and for shape A 0 or the byte count and 5 (42_codec.md R210). -/
theorem State.frameCheck_of_not_fits {s : State} {sh : Shape} {len : Nat} (h : ¬ fitsShape sh (s.rxBytes len)) :
    (s.frameCheck sh len).state = .framingError ∧ (s.frameCheck sh len).crcCalc = 0#16 ∧
      (s.frameCheck sh len).crcRecv = 0#16 ∧
      (sh = .b → (s.frameCheck sh len).expect = 8#9) ∧
      (sh = .a → (len < 3 ∨ 252 < (s.rxByte 2).toNat) → (s.frameCheck sh len).expect = 0#9) ∧
      (sh = .a → 3 ≤ len → (s.rxByte 2).toNat ≤ 252 →
        (s.frameCheck sh len).expect = BitVec.ofNat 9 ((s.rxByte 2).toNat + 5)) := by
  have hl := mt (State.frameLength_eq_len s sh len).mp h
  cases sh
  · simp only [State.frameCheck]
    by_cases h3 : len < 3
    · have : s.frameLength .a len = none := by simp [State.frameLength, h3]
      simp only [this]
      simp
      omega
    · by_cases hb : 252 < (s.rxByte 2).toNat
      · have : s.frameLength .a len = none := by simp [State.frameLength, h3, Config.byteCountMax, hb]
        simp only [this]
        simp
        omega
      · have hs : s.frameLength .a len = some ((s.rxByte 2).toNat + 5) := by
          simp [State.frameLength, h3, Config.byteCountMax, hb]
        have hne : len ≠ (s.rxByte 2).toNat + 5 := fun e => hl (by rw [hs, ← e])
        simp only [hs]
        rw [if_pos hne]
        simp
        omega
  · have hs : s.frameLength .b len = some 8 := rfl
    have hne : len ≠ 8 := fun e => hl (by rw [hs, e])
    simp only [State.frameCheck, hs]
    rw [if_pos hne]
    simp

end Sys2Proof.Machine
end

