-- ==== Sys2Proof/Laws/Events.lean ====
section
/-! SUPPORT. Laws/Events.lean: inversion lemmas: all that a command, an event and a step can do when they answer a next
state. -/

namespace Sys2Proof.Machine

/-! ### Commands -/

/-- CRC_TXBUF is rejected or continues the CRC (41_crc.md R184). -/
theorem execCrcTxbuf_cases {n : Nat} {s t : State} (h : execCrcTxbuf n s = .next t) :
    (260 < n ∧ t = s.rejectCommand 0x03#8 .badLength) ∨
    (n ≤ 260 ∧ t = { s with crc := crcFold s.crc (s.txBytes n) }) := by
  unfold execCrcTxbuf at h
  split at h <;> cases h
  · exact .inl ⟨‹_›, rfl⟩
  · exact .inr ⟨Nat.le_of_not_lt ‹_›, rfl⟩

/-- ENCODE is rejected or appends the CRC (42_codec.md R200). -/
theorem execEncode_cases {len : Nat} {s t : State} (h : execEncode len s = .next t) :
    (s.tx.busy = true ∧ t = s.rejectCommand 0x10#8 .txBusy) ∨
    (s.tx.busy = false ∧ 253 < len ∧ t = s.rejectCommand 0x10#8 .badLength) ∨
    (s.tx.busy = false ∧ len ≤ 253 ∧ t = s.appendCrc len) := by
  unfold execEncode at h
  split at h
  · cases h
    exact .inl ⟨‹_›, rfl⟩
  · split at h <;> cases h
    · exact .inr (.inl ⟨by simpa using ‹¬s.tx.busy = true›, ‹_›, rfl⟩)
    · exact .inr (.inr ⟨by simpa using ‹¬s.tx.busy = true›, Nat.le_of_not_lt ‹_›, rfl⟩)

/-- TX_SEND is rejected or starts the transmission (42_codec.md R202). -/
theorem execTxSend_cases {s t : State} (h : execTxSend s = .next t) :
    (s.tx.busy = true ∧ t = s.rejectCommand 0x11#8 .txBusy) ∨
    (s.tx.busy = false ∧ s.tx.len = 0#9 ∧ t = s.rejectCommand 0x11#8 .txEmpty) ∨
    (s.tx.busy = false ∧ s.tx.len ≠ 0#9 ∧ t = { s with tx := { s.tx with pos := 0#9, busy := true } }) := by
  unfold execTxSend at h
  split at h
  · cases h
    exact .inl ⟨‹_›, rfl⟩
  · split at h <;> cases h
    · exact .inr (.inl ⟨by simpa using ‹¬s.tx.busy = true›, ‹_›, rfl⟩)
    · exact .inr (.inr ⟨by simpa using ‹¬s.tx.busy = true›, ‹_›, rfl⟩)

/-- DECODE is rejected or checks the frame (42_codec.md R211). -/
theorem execDecode_cases {sh : Shape} {len : Nat} {s t : State} (h : execDecode sh len s = .next t) :
    (s.rxBusy = true ∧ t = s.rejectCommand 0x22#8 .rxBusy) ∨
    (s.rxBusy = false ∧ 260 < len ∧ t = s.rejectCommand 0x22#8 .badLength) ∨
    (s.rxBusy = false ∧ len ≤ 260 ∧ t = s.decodeFrame sh len) := by
  unfold execDecode at h
  split at h
  · cases h
    exact .inl ⟨‹_›, rfl⟩
  · split at h <;> cases h
    · exact .inr (.inl ⟨by simpa using ‹¬s.rxBusy = true›, ‹_›, rfl⟩)
    · exact .inr (.inr ⟨by simpa using ‹¬s.rxBusy = true›, Nat.le_of_not_lt ‹_›, rfl⟩)

/-- XACT is rejected or starts the transmission with a pending arm (43_receive.md R232). -/
theorem execXact_cases {sh : Shape} {sc : Bool} {s t : State} (h : execXact sh sc s = .next t) :
    (s.tx.busy = true ∧ t = s.rejectCommand 0x12#8 .txBusy) ∨
    (s.tx.busy = false ∧ s.rxBusy = true ∧ t = s.rejectCommand 0x12#8 .rxBusy) ∨
    (s.tx.busy = false ∧ s.rxBusy = false ∧ s.tx.len = 0#9 ∧ t = s.rejectCommand 0x12#8 .txEmpty) ∨
    (s.tx.busy = false ∧ s.rxBusy = false ∧ s.tx.len ≠ 0#9 ∧
      t = { s with
        rx := { s.rx with shape := sh, scan := sc, state := .idle, xactPend := true }
        tx := { s.tx with pos := 0#9, busy := true } }) := by
  unfold execXact at h
  split at h
  · cases h
    exact .inl ⟨‹_›, rfl⟩
  · have hb : s.tx.busy = false := by simpa using ‹¬s.tx.busy = true›
    split at h
    · cases h
      exact .inr (.inl ⟨hb, ‹_›, rfl⟩)
    · have hr : s.rxBusy = false := by simpa using ‹¬s.rxBusy = true›
      split at h <;> cases h
      · exact .inr (.inr (.inl ⟨hb, hr, ‹_›, rfl⟩))
      · exact .inr (.inr (.inr ⟨hb, hr, ‹_›, rfl⟩))

/-- RX_START is rejected or arms the receiver (43_receive.md R231). -/
theorem execRxStart_cases {sh : Shape} {sc : Bool} {s t : State} (h : execRxStart sh sc s = .next t) :
    (s.rxBusy = true ∧ t = s.rejectCommand 0x20#8 .rxBusy) ∨ (s.rxBusy = false ∧ t = s.rxArm sh sc) := by
  unfold execRxStart at h
  split at h <;> cases h
  · exact .inl ⟨‹_›, rfl⟩
  · exact .inr ⟨by simpa using ‹¬s.rxBusy = true›, rfl⟩

/-- RX_ABORT cancels a pending arm and stops a waiting receive (43_receive.md R233). -/
theorem execRxAbort_cases {s t : State} (h : execRxAbort s = .next t) :
    (s.rx.state.waiting = true ∧ t = { s with rx := { s.rx with state := .idle, timer := 0#16, xactPend := false } }) ∨
    (s.rx.state.waiting = false ∧ t = { s with rx := { s.rx with xactPend := false } }) := by
  unfold execRxAbort at h
  split at h <;> cases h
  · exact .inl ⟨‹_›, rfl⟩
  · exact .inr ⟨by simpa using ‹¬s.rx.state.waiting = true›, rfl⟩

/-- The window sizes MA_INIT accepts (45_moving_average.md R311). -/
theorem validWindow_iff (n : Nat) : validWindow n = true ↔ n ∈ [3, 5, 7, 9, 11, 13, 15] := by
  simp [validWindow, Config.maNMin, Config.maNMax]
  omega

/-- MA_INIT is rejected or clears the unit (45_moving_average.md R310). -/
theorem execMaInit_cases {n : Nat} {s t : State} (h : execMaInit n s = .next t) :
    (validWindow n = false ∧ t = s.rejectCommand 0x40#8 .badWindow) ∨
    (validWindow n = true ∧
      t = { s with
        ma :=
          { s.ma with
            n := BitVec.ofNat 4 n, widx := 0, seen := 0#4, tsv := false,
            ring := Vector.replicate 15 Sample.cleared, tsOut := 0#32, out := Lanes.fill Config.sentinel,
            num := Lanes.fill 0#32, den := Lanes.fill 0#5 } }) := by
  unfold execMaInit at h
  split at h <;> cases h
  · exact .inr ⟨‹_›, rfl⟩
  · exact .inl ⟨by simpa using ‹¬validWindow n = true›, rfl⟩

/-- MA_PUSH is rejected or filters one sample (45_moving_average.md R315). -/
theorem execMaPush_cases {s t : State} (h : execMaPush s = .next t) :
    (s.ma.n = 0#4 ∧ t = s.rejectCommand 0x41#8 .notConfigured) ∨
    (s.ma.n ≠ 0#4 ∧ t = { s with ma := (s.ma.store s.maSample).emit s.ma.widx }) := by
  unfold execMaPush at h
  split at h <;> cases h
  · exact .inl ⟨‹_›, rfl⟩
  · exact .inr ⟨‹_›, rfl⟩

/-- Every command answers a next state. -/
theorem exec_next (i : Instr) (s : State) : ∃ t, exec i s = .next t := by
  cases i <;> simp only [exec, execNop, execCrcInit, execCrcByte, execCrcTxbuf, execEncode, execTxSend, execXact,
    execRxStart, execRxAbort, execDecode, execMedInit, execMedPush, execMaInit, execMaPush, execSoftReset] <;>
    (repeat' split) <;> exact ⟨_, rfl⟩

/-! ### Events -/

/-- With an event pending, a step performs it. -/
theorem step_cons {s : State} {e : AgentEvent} {rest : List AgentEvent} (h : s.pending = e :: rest) :
    step s = performEvent e { s with pending := rest } := by
  simp only [step, nextEvent, h]

/-- With no event pending, a step changes nothing. -/
theorem step_nil {s : State} (h : s.pending = []) : step s = .next s := by
  simp only [step, nextEvent, h]

/-- What the issue of a command word does (40_control.md R170). -/
theorem issueCommand_cases {w : Word} {s t : State} (h : issueCommand w s = .next t) :
    (∃ i, decode w = .ok i ∧ exec i s = .next t) ∨ (∃ c, decode w = .error c ∧ t = s.rejectCommand (opField w) c) := by
  unfold issueCommand at h
  split at h
  · exact .inl ⟨_, ‹_›, h⟩
  · cases h
    exact .inr ⟨_, ‹_›, rfl⟩

/-- Command issue always answers a next state. -/
theorem issueCommand_next (w : Word) (s : State) : ∃ t, issueCommand w s = .next t := by
  unfold issueCommand
  split
  · exact exec_next _ _
  · exact ⟨_, rfl⟩

/-- What a host write does (20_memory.md R96..R98). -/
theorem hostWriteEvent_cases {a : Addr} {d : Word} {s t : State} (h : hostWriteEvent a d s = .next t) :
    (s.busWriteTarget a = none ∧ t = s.answer .writeError) ∨
    (s.busWriteTarget a = some .cmd ∧ issueCommand d (s.answer .written) = .next t) ∨
    (∃ r, r ≠ .cmd ∧ s.busWriteTarget a = some r ∧ t = (s.writeReg r d).answer .written) := by
  unfold hostWriteEvent at h
  split at h
  · cases h
    exact .inl ⟨‹_›, rfl⟩
  · exact .inr (.inl ⟨‹_›, h⟩)
  · cases h
    exact .inr (.inr ⟨_, ‹_›, ‹_›, rfl⟩)

/-- A host read changes nothing but the bus's answer (20_memory.md R97). -/
theorem hostReadEvent_cases {a : Addr} {s t : State} (h : hostReadEvent a s = .next t) : ∃ r, t = s.answer r := by
  unfold hostReadEvent at h
  split at h <;> cases h <;> exact ⟨_, rfl⟩

/-- What a received byte does (43_receive.md R234, R235). -/
theorem rxByteEvent_cases {b : Byte} {s t : State} (h : rxByteEvent b s = .next t) :
    (s.rx.state.waiting = false ∧ t = s.setEvent evRxDrop) ∨
    (s.rx.state.waiting = true ∧ s.rx.len.toNat < 260 ∧ t = (s.storeReceived b).afterStored) := by
  unfold rxByteEvent at h
  split at h
  · split at h <;> cases h
    exact .inr ⟨‹_›, ‹_›, rfl⟩
  · cases h
    exact .inl ⟨by simpa using ‹¬s.rx.state.waiting = true›, rfl⟩

/-- What a take does (42_codec.md R204). -/
theorem txAcceptEvent_cases {s t : State} (h : txAcceptEvent s = .next t) :
    s.txValid = true ∧
    ((s.tx.pos + 1#9 = s.tx.len ∧
      t = { s with
        tx := { s.tx with pos := s.tx.pos + 1#9 }, txLine := s.txLine ++ [s.txByte s.tx.pos.toNat] }.endTransmission) ∨
     (s.tx.pos + 1#9 ≠ s.tx.len ∧
      t = { s with tx := { s.tx with pos := s.tx.pos + 1#9 }, txLine := s.txLine ++ [s.txByte s.tx.pos.toNat] })) := by
  unfold txAcceptEvent at h
  split at h
  · refine ⟨‹_›, ?_⟩
    simp only at h
    split at h <;> cases h
    · exact .inl ⟨‹_›, rfl⟩
    · exact .inr ⟨‹_›, rfl⟩
  · cases h

/-- The end of a transmission with and without a pending XACT (42_codec.md R204). -/
theorem State.endTransmission_cases (s : State) :
    (s.rx.xactPend = false ∧
      s.endTransmission = { s with tx := { s.tx with busy := false }, event := s.event ||| evTxDone }) ∨
    (s.rx.xactPend = true ∧
      s.endTransmission =
        { s with
          tx := { s.tx with busy := false }
          event := s.event ||| evTxDone
          rx :=
            { s.rx with
              shape := s.rx.shape, scan := s.rx.scan, state := .waitAddress, len := 0#9,
              expect := armExpect s.rx.shape, crcCalc := 0#16, crcRecv := 0#16, timer := s.timeoutFor s.rx.scan,
              xactPend := false } }) := by
  unfold State.endTransmission
  split
  · exact .inr ⟨‹_›, rfl⟩
  · exact .inl ⟨by simpa using ‹¬s.rx.xactPend = true›, rfl⟩

/-- What a tick does to the timeout counter (43_receive.md R241, R242). -/
theorem State.tickTimer_cases (s : State) :
    (s.rx.state.waiting = false ∧ s.tickTimer = s) ∨
    (s.rx.state.waiting = true ∧ s.rx.timer.toNat ≤ 1 ∧ s.tickTimer = s.rxFinish .timeout) ∨
    (s.rx.state.waiting = true ∧ 1 < s.rx.timer.toNat ∧
      s.tickTimer = { s with rx := { s.rx with timer := s.rx.timer - 1#16 } }) := by
  unfold State.tickTimer
  split
  · split
    · exact .inr (.inl ⟨‹_›, ‹_›, rfl⟩)
    · exact .inr (.inr ⟨‹_›, by omega, rfl⟩)
  · exact .inl ⟨by simpa using ‹¬s.rx.state.waiting = true›, rfl⟩

/-- A tick touches the guard counter alone, besides the timeout counter (43_receive.md R246). -/
theorem State.tickGuard_eq (s : State) :
    s.tickGuard = { s with guardCnt := if s.guardCnt = 0#16 then s.guardCnt else s.guardCnt - 1#16 } := by
  unfold State.tickGuard
  split
  · cases s
    rfl
  · rfl

/-- What a byte just stored does, by the state it arrived in (43_receive.md R236..R238). -/
theorem State.afterStored_cases (s : State) (h : s.rx.state.waiting = true) :
    (s.rx.state = .waitAddress ∧
      s.afterStored =
        { s with
          rx :=
            { s.rx with
              state := if s.rx.shape = .a then .waitHeader else .waitBody, timer := s.timeoutFor s.rx.scan } }) ∨
    (s.rx.state = .waitHeader ∧ s.rx.len ≠ 3#9 ∧ s.afterStored = s) ∨
    (s.rx.state = .waitHeader ∧ s.rx.len = 3#9 ∧ 252 < (s.rxByte 2).toNat ∧
      s.afterStored =
        (s.noteVerdict { state := .framingError, expect := 0#9, crcCalc := 0#16, crcRecv := 0#16 }).rxFinish
          .framingError) ∨
    (s.rx.state = .waitHeader ∧ s.rx.len = 3#9 ∧ (s.rxByte 2).toNat ≤ 252 ∧
      s.afterStored =
        { s with
          rx :=
            { s.rx with
              expect := BitVec.ofNat 9 ((s.rxByte 2).toNat + 5), state := .waitBody,
              timer := s.timeoutFor s.rx.scan } }) ∨
    (s.rx.state = .waitBody ∧ s.rx.len ≠ s.rx.expect ∧ s.afterStored = s) ∨
    (s.rx.state = .waitBody ∧ s.rx.len = s.rx.expect ∧
      s.afterStored =
        (s.noteVerdict (s.frameCheck s.rx.shape s.rx.len.toNat)).rxFinish
          (s.frameCheck s.rx.shape s.rx.len.toNat).state) := by
  rcases RxState.waiting_cases h with h | h | h
  · exact .inl ⟨h, by simp only [State.afterStored, h, State.afterAddress]⟩
  · right
    by_cases hl : s.rx.len = 3#9
    · by_cases hb : 252 < (s.rxByte 2).toNat
      · exact .inr (.inl ⟨h, hl, hb, by simp only [State.afterStored, h, State.afterHeader, if_pos hl, if_pos hb]⟩)
      · exact .inr (.inr (.inl ⟨h, hl, by omega,
          by simp only [State.afterStored, h, State.afterHeader, if_pos hl, if_neg hb]⟩))
    · exact .inl ⟨h, hl, by simp only [State.afterStored, h, State.afterHeader, if_neg hl]⟩
  · right; right; right; right
    by_cases hl : s.rx.len = s.rx.expect
    · exact .inr ⟨h, hl, by simp only [State.afterStored, h, State.afterBody, if_pos hl]⟩
    · exact .inl ⟨h, hl, by simp only [State.afterStored, h, State.afterBody, if_neg hl]⟩

/-! ### Steps -/

/-- All that a step can do: nothing when no event is pending, else the head event. -/
theorem step_cases {s t : State} (h : step s = .next t) :
    (s.pending = [] ∧ t = s) ∨
    (∃ e rest, s.pending = e :: rest ∧ performEvent e { s with pending := rest } = .next t) := by
  cases hp : s.pending with
  | nil =>
    rw [step_nil hp] at h
    cases h
    exact .inl ⟨rfl, rfl⟩
  | cons e rest => exact .inr ⟨e, rest, rfl, step_cons hp ▸ h⟩

/-- A host write that reaches a register is not gated there. -/
theorem State.busWriteTarget_eq_some {s : State} {a : Addr} {r : Reg} (h : s.busWriteTarget a = some r) :
    regAt a = some r ∧ s.writeGated r = false := by
  unfold State.busWriteTarget at h
  cases hr : regAt a with
  | none => simp [hr] at h
  | some q =>
    by_cases hg : s.writeGated q
    · simp [hr, hg] at h
    · simp only [hr, Option.bind_some, hg] at h
      cases h
      exact ⟨rfl, by simpa using hg⟩

/-- The induction principle of the block: a property of states that the rejection, every command, every register write
and every event keeps, and that does not look at the model's own record, is kept by every step. -/
theorem step_keeps {P : State → Prop}
    (own : ∀ (s : State) (r : HostResp) (p : List AgentEvent), P s → P { s with hostResp := r, pending := p })
    (reject : ∀ (s : State) (op : Byte) (c : ErrCode), P s → P (s.rejectCommand op c))
    (command : ∀ (i : Instr) (s t : State), P s → exec i s = .next t → P t)
    (write : ∀ (s : State) (r : Reg) (d : Word), r ≠ .cmd → s.writeGated r = false → P s → P (s.writeReg r d))
    (rxByte : ∀ (b : Byte) (s t : State), P s → rxByteEvent b s = .next t → P t)
    (txAccept : ∀ s t : State, P s → txAcceptEvent s = .next t → P t)
    (tickTimer : ∀ s : State, P s → P s.tickTimer)
    (tickGuard : ∀ s : State, P s → P s.tickGuard)
    (powerOn : ∀ s : State, P s → P s.powerOnReset)
    {s t : State} (hs : P s) (h : step s = .next t) : P t := by
  rcases step_cases h with ⟨-, rfl⟩ | ⟨e, rest, -, h⟩
  · exact hs
  · replace hs : P { s with pending := rest } := own _ _ _ hs
    generalize ({ s with pending := rest } : State) = u at hs h
    cases e with
    | hostWrite a d =>
      rcases hostWriteEvent_cases h with ⟨-, rfl⟩ | ⟨-, h⟩ | ⟨r, hr, hb, rfl⟩
      · exact own _ _ _ hs
      · rcases issueCommand_cases h with ⟨i, -, h⟩ | ⟨c, -, rfl⟩
        · exact command _ _ _ (own _ _ _ hs) h
        · exact reject _ _ _ (own _ _ _ hs)
      · exact own _ _ _ (write _ _ _ hr (State.busWriteTarget_eq_some hb).2 hs)
    | hostRead a =>
      obtain ⟨r, rfl⟩ := hostReadEvent_cases h
      exact own _ _ _ hs
    | rxByte b => exact rxByte _ _ _ hs h
    | txAccept => exact txAccept _ _ hs h
    | tick =>
      cases h
      exact tickGuard _ (tickTimer _ hs)
    | reset =>
      cases h
      exact powerOn _ hs

/-- The word that `withFetchWord` places is the one the next step issues. -/
theorem step_withFetchWord (s : State) (nbits w : Nat) :
    step (s.withFetchWord nbits w) = issueCommand (commandWord nbits w) (s.answer .written) := rfl

/-- A run of no events is the state itself. -/
theorem runEvents_nil (s : State) : runEvents [] s = .next s := rfl

end Sys2Proof.Machine
end

