-- ==== Sys2Proof/Laws/PerInstr.lean ====
section
/-! SUPPORT. Laws/PerInstr.lean: the family OpcodeByte: the low byte of a command's word is its opcode, which is what
ERR.OP records (30_encoding.md R120, 60_exceptions.md R351), whatever its operands. -/

namespace Sys2Proof.Laws.OpcodeByte

/-- Bits 7:0 of the command's word are its opcode, which no operand reaches. -/
def Statement (i : Instr) : Prop := (encode i).extractLsb' 0 8 = i.opcode

theorem nop : Statement .nop := opField_encode _
theorem crcInit : Statement .crcInit := opField_encode _
theorem crcByte (b : Byte) : Statement (.crcByte b) := opField_encode _
theorem crcTxbuf (n : Nat) : Statement (.crcTxbuf n) := opField_encode _
theorem encode (len : Nat) : Statement (.encode len) := opField_encode _
theorem txSend : Statement .txSend := opField_encode _
theorem xact (shape : Shape) (scan : Bool) : Statement (.xact shape scan) := opField_encode _
theorem rxStart (shape : Shape) (scan : Bool) : Statement (.rxStart shape scan) := opField_encode _
theorem rxAbort : Statement .rxAbort := opField_encode _
theorem decode (shape : Shape) (len : Nat) : Statement (.decode shape len) := opField_encode _
theorem medInit : Statement .medInit := opField_encode _
theorem medPush : Statement .medPush := opField_encode _
theorem maInit (n : Nat) : Statement (.maInit n) := opField_encode _
theorem maPush : Statement .maPush := opField_encode _
theorem softReset : Statement .softReset := opField_encode _

end Sys2Proof.Laws.OpcodeByte
end

