-- ==== Sys2Proof/Laws/Run.lean ====
section
/-! SUPPORT. Laws/Run.lean: an event and the list of events behind it: neither reads the other, so a run of several
events is its events' effects one after the other (00_scope.md R6, R7; log 3). -/

namespace Sys2Proof.Machine

/-- A command neither looks at the events to come nor changes them. -/
theorem exec_pending {i : Instr} {s t : State} (p : List AgentEvent) (h : exec i s = .next t) :
    exec i { s with pending := p } = .next { t with pending := p } ∧ t.pending = s.pending := by
  cases i <;> simp only [exec, execNop, execCrcInit, execCrcByte, execCrcTxbuf, execEncode, execTxSend, execXact,
    execRxStart, execRxAbort, execDecode, execMedInit, execMedPush, execMaInit, execMaPush, execSoftReset] at h ⊢ <;>
    repeat' split at h
  all_goals cases h
  all_goals first
    | exact ⟨rfl, rfl⟩
    | (refine ⟨?_, rfl⟩
       first
        | (rw [if_pos (by assumption)] <;> rfl)
        | (rw [if_neg (by assumption), if_pos (by assumption)] <;> rfl)
        | (rw [if_neg (by assumption), if_neg (by assumption)] <;> rfl)
        | (rw [if_neg (by assumption)] <;> rfl)
        | (rw [if_neg (by assumption), if_neg (by assumption), if_pos (by assumption)] <;> rfl)
        | rw [if_neg (by assumption), if_neg (by assumption), if_neg (by assumption)])

/-! Each operation under an event leaves the list of events alone. -/

theorem State.writeReg_pending (s : State) (r : Reg) (d : Word) (p : List AgentEvent) :
    ({ s with pending := p } : State).writeReg r d = { s.writeReg r d with pending := p } := by
  cases r <;> rfl

theorem State.writeReg_keeps_pending (s : State) (r : Reg) (d : Word) : (s.writeReg r d).pending = s.pending := by
  cases r <;> rfl

theorem State.busWriteTarget_pending (s : State) (a : Addr) (p : List AgentEvent) :
    ({ s with pending := p } : State).busWriteTarget a = s.busWriteTarget a := rfl

theorem State.readReg_pending (s : State) (r : Reg) (p : List AgentEvent) :
    ({ s with pending := p } : State).readReg r = s.readReg r := by
  cases r <;> rfl

theorem State.busRead_pending (s : State) (a : Addr) (p : List AgentEvent) :
    ({ s with pending := p } : State).busRead a = s.busRead a := rfl

theorem State.afterStored_pending (s : State) (p : List AgentEvent) :
    ({ s with pending := p } : State).afterStored = { s.afterStored with pending := p } ∧
      s.afterStored.pending = s.pending := by
  simp only [State.afterStored]
  split
  · exact ⟨rfl, rfl⟩
  · simp only [State.afterHeader]
    split
    · have hb : ({ s with pending := p } : State).rxByte 2 = s.rxByte 2 := rfl
      simp only [hb]
      split <;> exact ⟨rfl, rfl⟩
    · exact ⟨rfl, rfl⟩
  · simp only [State.afterBody]
    split <;> exact ⟨rfl, rfl⟩
  all_goals exact ⟨rfl, rfl⟩

theorem State.endTransmission_pending (s : State) (p : List AgentEvent) :
    ({ s with pending := p } : State).endTransmission = { s.endTransmission with pending := p } ∧
      s.endTransmission.pending = s.pending := by
  simp only [State.endTransmission]
  split <;> exact ⟨rfl, rfl⟩

/-- What a single event does neither looks at the events behind it nor changes them. -/
theorem performEvent_pending {e : AgentEvent} {s t : State} (p : List AgentEvent) (h : performEvent e s = .next t) :
    performEvent e { s with pending := p } = .next { t with pending := p } ∧ t.pending = s.pending := by
  cases e with
  | hostWrite a d =>
    rcases hostWriteEvent_cases h with ⟨hb, rfl⟩ | ⟨hb, h⟩ | ⟨r, hr, hb, rfl⟩
    · refine ⟨?_, rfl⟩
      simp only [performEvent, hostWriteEvent, State.busWriteTarget_pending, hb]
      rfl
    · rcases issueCommand_cases h with ⟨i, hd, h⟩ | ⟨c, hd, rfl⟩
      · obtain ⟨h1, h2⟩ := exec_pending p h
        refine ⟨?_, h2⟩
        simp only [performEvent, hostWriteEvent, State.busWriteTarget_pending, hb, issueCommand, hd]
        exact h1
      · refine ⟨?_, rfl⟩
        simp only [performEvent, hostWriteEvent, State.busWriteTarget_pending, hb, issueCommand, hd]
        rfl
    · refine ⟨?_, State.writeReg_keeps_pending s r d⟩
      have : performEvent (.hostWrite a d) { s with pending := p } =
          .next ((({ s with pending := p } : State).writeReg r d).answer .written) := by
        simp only [performEvent, hostWriteEvent, State.busWriteTarget_pending, hb]
      rw [this, State.writeReg_pending]
      rfl
  | hostRead a =>
    simp only [performEvent, hostReadEvent] at h ⊢
    rw [State.busRead_pending]
    split at h <;> cases h <;> exact ⟨rfl, rfl⟩
  | rxByte b =>
    rcases rxByteEvent_cases h with ⟨hw, rfl⟩ | ⟨hw, hl, rfl⟩
    · refine ⟨?_, rfl⟩
      simp only [performEvent, rxByteEvent]
      rw [if_neg (by simpa using hw)]
      rfl
    · have h1 := State.afterStored_pending (s.storeReceived b) p
      refine ⟨?_, h1.2⟩
      have hw' : ({ s with pending := p } : State).rx.state.waiting = true := hw
      exact (if_pos hw').trans ((if_pos hl).trans (congrArg _ h1.1))
  | txAccept =>
    obtain ⟨hv, ⟨he, rfl⟩ | ⟨he, rfl⟩⟩ := txAcceptEvent_cases h
    · have h1 := State.endTransmission_pending
        { s with tx := { s.tx with pos := s.tx.pos + 1#9 }, txLine := s.txLine ++ [s.txByte s.tx.pos.toNat] } p
      refine ⟨?_, h1.2⟩
      have hv' : ({ s with pending := p } : State).txValid = true := hv
      exact (if_pos hv').trans (congrArg _ ((if_pos he).trans h1.1))
    · have hv' : ({ s with pending := p } : State).txValid = true := hv
      exact ⟨(if_pos hv').trans (congrArg _ (if_neg he)), rfl⟩
  | tick =>
    cases h
    have key : ∀ u : State, ({ u with pending := p } : State).tickTimer = { u.tickTimer with pending := p } ∧
        u.tickTimer.pending = u.pending := by
      intro u
      simp only [State.tickTimer]
      split
      · split <;> exact ⟨rfl, rfl⟩
      · exact ⟨rfl, rfl⟩
    simp only [performEvent, tickEvent, State.tickGuard_eq, (key s).1, (key s).2, and_self]
  | reset =>
    cases h
    exact ⟨rfl, rfl⟩

/-- A run of several steps goes on from the first one's state. -/
theorem run_succ {k : Nat} {s t : State} (h : step s = .next t) :
    Host.Core.run Sys2Proof.core (k + 1) s = Host.Core.run Sys2Proof.core k t := by
  have h' : Sys2Proof.core.step s = .next t := h
  simp only [Host.Core.run, h']

/-- A run performs its first event and then the others. -/
theorem runEvents_cons {e : AgentEvent} {s t : State} (es : List AgentEvent) (h : performEvent e s = .next t) :
    runEvents (e :: es) s = runEvents es t := by
  obtain ⟨hp, ht⟩ := performEvent_pending (es ++ s.pending) h
  have hs : step { s with pending := e :: (es ++ s.pending) } = .next { t with pending := es ++ s.pending } :=
    (step_cons rfl).trans hp
  unfold runEvents
  rw [ht]
  exact run_succ hs

/-- A run that answers a next state performed its first event and then the others. -/
theorem runEvents_cons_inv {e : AgentEvent} {es : List AgentEvent} {s t : State} (h : runEvents (e :: es) s = .next t) :
    ∃ u, performEvent e s = .next u ∧ runEvents es u = .next t := by
  have hs : step { s with pending := e :: (es ++ s.pending) } =
      performEvent e { s with pending := es ++ s.pending } := step_cons rfl
  cases hv : performEvent e { s with pending := es ++ s.pending } with
  | next v =>
    obtain ⟨hp, -⟩ := performEvent_pending s.pending hv
    exact ⟨_, hp, (runEvents_cons es hp).symm.trans h⟩
  | fault f =>
    have h' : Sys2Proof.core.step { s with pending := e :: (es ++ s.pending) } = .fault f := hs.trans hv
    simp only [runEvents, List.length_cons, List.cons_append, Host.Core.run, h'] at h
    cases h
  | refused r =>
    have h' : Sys2Proof.core.step { s with pending := e :: (es ++ s.pending) } = .refused r := hs.trans hv
    simp only [runEvents, List.length_cons, List.cons_append, Host.Core.run, h'] at h
    cases h

/-- A run in two parts. -/
theorem runEvents_append {es : List AgentEvent} (fs : List AgentEvent) {s t : State} (h : runEvents es s = .next t) :
    runEvents (es ++ fs) s = runEvents fs t := by
  induction es generalizing s with
  | nil =>
    cases h
    rfl
  | cons e es ih =>
    obtain ⟨u, hu, h⟩ := runEvents_cons_inv h
    rw [List.cons_append, runEvents_cons _ hu]
    exact ih h

end Sys2Proof.Machine
end

