-- ==== Sys2Proof/Laws/Units.lean ====
section
/-! SUPPORT. Laws/Units.lean: the lanes, the two filter units and the host register map: each field after each of their
operations, and the map's addresses. -/

namespace Sys2Proof

/-! ### Lanes -/

@[simp] theorem Lanes.get_ofFn {α : Type} (f : Fin 8 → α) (c : Fin 8) : (Lanes.ofFn f).get c = f c := by
  fin_cases c <;> rfl

@[simp] theorem Lanes.get_fill {α : Type} (x : α) (c : Fin 8) : (Lanes.fill x).get c = x := by
  fin_cases c <;> rfl

theorem Lanes.get_set {α : Type} (v : Lanes α) (c d : Fin 8) (x : α) :
    (v.set c x).get d = if d = c then x else v.get d := by
  fin_cases c <;> fin_cases d <;> rfl

/-- Lanes are equal when every lane is. -/
theorem Lanes.ext_get {α : Type} {v w : Lanes α} (h : ∀ c, v.get c = w.get c) : v = w := by
  obtain ⟨_, _, _, _, _, _, _, _⟩ := v
  obtain ⟨_, _, _, _, _, _, _, _⟩ := w
  have h0 := h 0
  have h1 := h 1
  have h2 := h 2
  have h3 := h 3
  have h4 := h 4
  have h5 := h 5
  have h6 := h 6
  have h7 := h 7
  simp_all [Lanes.get]

namespace Machine

/-! ### Median unit -/

@[simp] theorem Sample.cleared_ts : Sample.cleared.ts = 0#32 := rfl
@[simp] theorem Sample.cleared_v : Sample.cleared.v = Lanes.fill Config.sentinel := rfl

@[simp] theorem medAfter_val (i : Fin 3) (k : Nat) : (medAfter i k).val = (i.val + k) % 3 := rfl

variable (m : MedUnit) (u : MaUnit) (x : Sample)

@[simp] theorem MedUnit.store_tsIn : (m.store x).tsIn = m.tsIn := rfl
@[simp] theorem MedUnit.store_inp : (m.store x).inp = m.inp := rfl
@[simp] theorem MedUnit.store_warm : (m.store x).warm = true := rfl
@[simp] theorem MedUnit.store_idx : (m.store x).idx = medAfter m.idx 1 := rfl
@[simp] theorem MedUnit.emit_tsIn : m.emit.tsIn = m.tsIn := rfl
@[simp] theorem MedUnit.emit_inp : m.emit.inp = m.inp := rfl
@[simp] theorem MedUnit.emit_warm : m.emit.warm = m.warm := rfl
@[simp] theorem MedUnit.emit_idx : m.emit.idx = m.idx := rfl
@[simp] theorem MedUnit.emit_ring : m.emit.ring = m.ring := rfl

/-- The ring after a store: the sample where the advanced index points; elsewhere the old slots, or the sample again
when the push is the first (44_median.md R281, R282). -/
theorem MedUnit.store_ring (k : Fin 3) :
    (m.store x).ring[k] = if k = medAfter m.idx 1 then x else if m.warm then m.ring[k] else x := by
  show ((if m.warm then m.ring else Vector.replicate 3 x).set (medAfter m.idx 1) x)[k] = _
  by_cases hk : k = medAfter m.idx 1
  · subst hk
    rw [if_pos rfl]
    exact Vector.getElem_set_self _
  · have hne : (medAfter m.idx 1).val ≠ k.val := fun e => hk (Fin.ext e.symm)
    rw [if_neg hk]
    refine (Vector.getElem_set_ne _ _ hne).trans ?_
    split
    · rfl
    · exact Vector.getElem_replicate _

/-! ### Moving-average unit -/

@[simp] theorem MaUnit.store_tsIn : (u.store x).tsIn = u.tsIn := rfl
@[simp] theorem MaUnit.store_inp : (u.store x).inp = u.inp := rfl
@[simp] theorem MaUnit.store_n : (u.store x).n = u.n := rfl
@[simp] theorem MaUnit.emit_tsIn (w : Fin 15) : (u.emit w).tsIn = u.tsIn := rfl
@[simp] theorem MaUnit.emit_inp (w : Fin 15) : (u.emit w).inp = u.inp := rfl
@[simp] theorem MaUnit.emit_n (w : Fin 15) : (u.emit w).n = u.n := rfl
@[simp] theorem MaUnit.emit_widx (w : Fin 15) : (u.emit w).widx = u.widx := rfl
@[simp] theorem MaUnit.emit_seen (w : Fin 15) : (u.emit w).seen = u.seen := rfl
@[simp] theorem MaUnit.emit_ring (w : Fin 15) : (u.emit w).ring = u.ring := rfl

/-- The write index after a store (45_moving_average.md R315). -/
theorem MaUnit.store_widx_val (h : u.n ≠ 0#4) : (u.store x).widx.val = (u.widx.val + 1) % u.n.toNat := by
  have hn : 0 < u.n.toNat := Nat.pos_of_ne_zero fun e => h (BitVec.eq_of_toNat_eq e)
  have hlt := Nat.mod_lt (u.widx.val + 1) hn
  have h15 := u.n.isLt
  show (u.widx.val + 1) % u.n.toNat % 15 = _
  exact Nat.mod_eq_of_lt (by omega)

/-- The seen-count after a store (45_moving_average.md R315). -/
theorem MaUnit.store_seen_toNat : (u.store x).seen.toNat = min (u.seen.toNat + 1) u.n.toNat := by
  have h15 := u.n.isLt
  show (min (u.seen.toNat + 1) u.n.toNat) % 2 ^ 4 = _
  exact Nat.mod_eq_of_lt (by omega)

/-- The ring after a store: the sample at the write index, every other slot as before (45_moving_average.md R315). -/
theorem MaUnit.store_ring (k : Fin 15) : (u.store x).ring[k] = if k = u.widx then x else u.ring[k] := by
  show (u.ring.set u.widx x)[k] = _
  by_cases hk : k = u.widx
  · subst hk
    rw [if_pos rfl]
    exact Vector.getElem_set_self _
  · have hne : u.widx.val ≠ k.val := fun e => hk (Fin.ext e.symm)
    rw [if_neg hk]
    exact Vector.getElem_set_ne _ _ hne

/-- The ring index of the slot of age `k` stays in the window (45_moving_average.md R316). -/
theorem maSlotIndex_val {n w k : Nat} (h0 : 0 < n) (h15 : n ≤ 15) : (maSlotIndex n w k).val = (w + n - k) % n := by
  have hlt := Nat.mod_lt (w + n - k) h0
  show (w + n - k) % n % 15 = _
  exact Nat.mod_eq_of_lt (by omega)

/-! ### Host register map -/

/-- What an address reaches has that address (20_memory.md R91). -/
theorem regAt_address {a : Addr} {r : Reg} (h : regAt a = some r) : a.toNat % 4 = 0 ∧ regAtAligned a.toNat = some r := by
  unfold regAt at h
  split at h
  · exact ⟨‹_›, h⟩
  · cases h

end Machine

end Sys2Proof
end

