-- ==== Sys2Proof/Tests/Slice0.lean ====
section
/-! SUPPORT. Tests/Slice0.lean: the model's own tests: ill-formed commands refused, every command's word written out
from 30_encoding.md R124, single steps with the results the spec's examples give, and for every statement with
hypotheses a state that meets them. -/

namespace Sys2Proof.Tests

open Sys2Proof.Machine

/-! ### WellFormed: a command whose operand does not fit its field is refused (30_encoding.md R120) -/

theorem test_wellFormed_crcTxbuf : (Instr.crcTxbuf 65535).WellFormed = true ∧ (Instr.crcTxbuf 65536).WellFormed = false := by
  decide
theorem test_wellFormed_encode : (Instr.encode 65535).WellFormed = true ∧ (Instr.encode 65536).WellFormed = false := by
  decide
theorem test_wellFormed_decode :
    (Instr.decode .a 65535).WellFormed = true ∧ (Instr.decode .a 65536).WellFormed = false := by decide
theorem test_wellFormed_maInit : (Instr.maInit 255).WellFormed = true ∧ (Instr.maInit 256).WellFormed = false := by
  decide

/-! ### Decoding: the words of 30_encoding.md R124, written out A16, A8, OP bit by bit -/

theorem test_decode_nop : decode 0b0000000000000000_00000000_00000000#32 = .ok .nop := by decide
theorem test_decode_crcInit : decode 0b0000000000000000_00000000_00000001#32 = .ok .crcInit := by decide
theorem test_decode_crcByte : decode 0b0000000000000000_10100101_00000010#32 = .ok (.crcByte 0xA5#8) := by decide
theorem test_decode_crcTxbuf : decode 0b0000000100000100_00000000_00000011#32 = .ok (.crcTxbuf 260) := by decide
theorem test_decode_encode : decode 0b0000000011111101_00000000_00010000#32 = .ok (.encode 253) := by decide
theorem test_decode_txSend : decode 0b0000000000000000_00000000_00010001#32 = .ok .txSend := by decide
theorem test_decode_xact : decode 0b0000000000000000_00000010_00010010#32 = .ok (.xact .a true) := by decide
theorem test_decode_rxStart : decode 0b0000000000000000_00000001_00100000#32 = .ok (.rxStart .b false) := by decide
theorem test_decode_rxAbort : decode 0b0000000000000000_00000000_00100001#32 = .ok .rxAbort := by decide
theorem test_decode_decode : decode 0b0000000000001000_00000001_00100010#32 = .ok (.decode .b 8) := by decide
theorem test_decode_medInit : decode 0b0000000000000000_00000000_00110000#32 = .ok .medInit := by decide
theorem test_decode_medPush : decode 0b0000000000000000_00000000_00110001#32 = .ok .medPush := by decide
theorem test_decode_maInit : decode 0b0000000000000000_00000101_01000000#32 = .ok (.maInit 5) := by decide
theorem test_decode_maPush : decode 0b0000000000000000_00000000_01000001#32 = .ok .maPush := by decide
theorem test_decode_softReset : decode 0b0000000000000000_00000000_11111111#32 = .ok .softReset := by decide

/-- R123: SCAN is reserved for DECODE; bit 31 for NOP; A8 for ENCODE. -/
theorem test_decode_reserved :
    decode 0x00080322#32 = .error .reservedField ∧ decode 0x80000000#32 = .error .reservedField ∧
    decode 0x00040110#32 = .error .reservedField := by decide

/-- R125, R126: an opcode that is not assigned, whatever the other bits. -/
theorem test_decode_illegal :
    decode 0x00000004#32 = .error .illegalOpcode ∧ decode 0xFFFFFFFE#32 = .error .illegalOpcode := by decide

/-- The table's numbering of a word's bits. -/
theorem test_tableWord : decodeTableWord 32 0x00060003 = some (.crcTxbuf 6) := by decide

/-! ### Single steps: the examples of the command rules -/

/-- `s` with these bytes in its buffers. -/
def withCells (s : State) (m : Memory) : State := { s with mem := m }

/-- TXBUF as the host fills it for the examples of R184 and R200. -/
def requestCells : Memory :=
  [(0x400, 0x01#8), (0x401, 0x03#8), (0x402, 0x00#8), (0x403, 0x00#8), (0x404, 0x00#8), (0x405, 0x01#8)]

/-- RXBUF as in the example of R211. -/
def responseCells : Memory :=
  [(0x600, 0x01#8), (0x601, 0x06#8), (0x602, 0x00#8), (0x603, 0xFF#8), (0x604, 0x00#8), (0x605, 0x05#8),
    (0x606, 0x79#8), (0x607, 0xF9#8)]

/-- `f` holds of the next state of an outcome. -/
def nextIs (r : Result) (f : State → Bool) : Bool :=
  match r with
  | .next t => f t
  | .fault _ => false
  | .refused _ => false

/-- Every lane `x`. -/
def sampleOf (ts : Word) (x : Half) : Sample := ⟨ts, Lanes.fill x⟩

/-- 40_control.md R171: a NOP leaves a previous error. -/
theorem test_nop : nextIs (exec .nop { State.reset with err := 0x4007#16 }) (·.err == 0x4007#16) = true := by decide
/-- 41_crc.md R182. -/
theorem test_crcInit : nextIs (exec .crcInit { State.reset with crc := 5#16 }) (·.crc == 0xFFFF#16) = true := by decide
/-- 41_crc.md R183: the example, and a zero byte on a zero CRC. -/
theorem test_crcByte : nextIs (exec (.crcByte 0x01#8) State.reset) (·.crc == 0x807E#16) = true := by decide
theorem test_crcByte_zero :
    nextIs (exec (.crcByte 0x00#8) { State.reset with crc := 0#16 }) (·.crc == 0#16) = true := by decide
/-- 41_crc.md R184: the example, and the limit. -/
theorem test_crcTxbuf :
    nextIs (exec (.crcTxbuf 6) (withCells State.reset requestCells)) (·.crc == 0x0A84#16) = true := by decide +kernel
theorem test_crcTxbuf_tooLong : nextIs (exec (.crcTxbuf 261) State.reset) (·.err == 0x0305#16) = true := by decide
/-- 42_codec.md R200: the example, and `L` = 254 (60_exceptions.md R351). -/
theorem test_encode :
    nextIs (exec (.encode 4) (withCells State.reset requestCells))
      (fun t => t.txBytes 8 == [0x01#8, 0x03#8, 0x00#8, 0x00#8, 0x00#8, 0x01#8, 0x84#8, 0x0A#8] && t.tx.len == 8#9) =
    true := by decide +kernel
theorem test_encode_tooLong : nextIs (exec (.encode 254) State.reset) (·.err == 0x1005#16) = true := by decide
/-- 42_codec.md R202. -/
theorem test_txSend :
    nextIs (exec .txSend { State.reset with tx := ⟨8#9, 8#9, false⟩ }) (fun t => t.tx == ⟨8#9, 0#9, true⟩) = true := by
  decide
theorem test_txSend_empty : nextIs (exec .txSend State.reset) (·.err == 0x1106#16) = true := by decide
/-- 43_receive.md R232, 60_exceptions.md R360: the writes, and RX_BUSY before TX_EMPTY. -/
theorem test_xact :
    nextIs (exec (.xact .a false) { State.reset with tx := ⟨8#9, 8#9, false⟩ })
      (fun t => t.rx.xactPend && t.tx == ⟨8#9, 0#9, true⟩) = true := by decide
theorem test_xact_order :
    nextIs (exec (.xact .a false) (State.reset.rxArm .b false)) (·.err == 0x1204#16) = true := by decide
/-- 43_receive.md R231: the example, and RX_BUSY. -/
theorem test_rxStart :
    nextIs (exec (.rxStart .b false) State.reset)
      (fun t => t.rx.state == .waitAddress && t.rx.expect == 8#9 && t.rx.timer == 500#16) = true := by decide
theorem test_rxStart_scan :
    nextIs (exec (.rxStart .a true) State.reset) (fun t => t.rx.expect == 0#9 && t.rx.timer == 100#16) = true := by
  decide
/-- 43_receive.md R233: `RX_LEN` keeps the bytes received. -/
theorem test_rxAbort :
    nextIs (exec .rxAbort { State.reset with rx := { State.reset.rx with state := .waitHeader, len := 1#9, timer := 9#16 } })
      (fun t => t.rx.state == .idle && t.rx.len == 1#9 && t.rx.timer == 0#16) = true := by decide
/-- 42_codec.md R211: the example, and a shape mismatch. -/
theorem test_decodeCommand :
    nextIs (exec (.decode .b 8) (withCells State.reset responseCells))
      (fun t => t.rx.state == .complete && t.rxCrcWord == 0xF979F979#32) = true := by decide +kernel
theorem test_decodeCommand_short :
    nextIs (exec (.decode .b 7) (withCells State.reset responseCells))
      (fun t => t.rx.state == .framingError && t.rx.expect == 8#9) = true := by decide
/-- 44_median.md R280. -/
theorem test_medInit :
    nextIs (exec .medInit { State.reset with med := { State.reset.med with warm := true, tsIn := 7#32 } })
      (fun t => !t.med.warm && t.med.tsIn == 7#32) = true := by decide
/-- 44_median.md R282: the first and the third push of the example. -/
theorem test_medPush_first :
    nextIs (exec .medPush { State.reset with med := { State.reset.med with tsIn := 1#32, inp := Lanes.fill 5#16 } })
      (fun t => t.med.out.l0 == 5#16 && t.med.tsOut == 1#32) = true := by decide
theorem test_medPush_third :
    nextIs
      (exec .medPush
        { State.reset with
          med :=
            { State.reset.med with
              tsIn := 3#32, inp := Lanes.fill 100#16, warm := true, idx := 2,
              ring := ((Vector.replicate 3 (sampleOf 1#32 5#16)).set 2 (sampleOf 2#32 5#16)) } })
      (fun t => t.med.out.l7 == 5#16 && t.med.tsOut == 2#32 && t.med.idx == 0) = true := by decide
/-- 45_moving_average.md R310: the two examples. -/
theorem test_maInit : nextIs (exec (.maInit 5) State.reset) (·.maStatWord == 5#32) = true := by decide
theorem test_maInit_even : nextIs (exec (.maInit 4) State.reset) (·.err == 0x4007#16) = true := by decide

/-- A unit with `N` = 5 before the fifth push of the example of R315. -/
def fourPushed : State :=
  { State.reset with
    ma :=
      { State.reset.ma with
        n := 5#4, widx := 4, seen := 4#4, tsIn := 5#32, inp := Lanes.fill 50#16
        ring :=
          ((((Vector.replicate 15 Sample.cleared).set 0 (sampleOf 1#32 10#16)).set 1 (sampleOf 2#32 20#16)).set 2
            (sampleOf 3#32 30#16)).set 3 (sampleOf 4#32 40#16) } }

/-- 45_moving_average.md R315: the example's fifth push. -/
theorem test_maPush :
    nextIs (exec .maPush fourPushed)
      (fun t => t.ma.out.l0 == 30#16 && t.ma.num.l0 == 240#32 && t.ma.den.l0 == 8#5 && t.ma.tsOut == 3#32) = true := by
  decide
theorem test_maPush_notConfigured : nextIs (exec .maPush State.reset) (·.err == 0x4108#16) = true := by decide
/-- 45_moving_average.md R320: the examples. -/
theorem test_roundHalfAway :
    roundHalfAway 20 8 = 3 ∧ roundHalfAway (-3) 2 = -2 ∧ roundHalfAway (-7) 4 = -2 ∧ roundHalfAway 1 3 = 0 ∧
    roundHalfAway (-2) 3 = -1 := by decide
/-- 40_control.md R172. -/
theorem test_softReset : nextIs (exec .softReset fourPushed) (fun t => t.maStatWord == 0#32 && t.statusWord == 0#32) = true := by
  decide

/-- 10_state.md R64: what the host reads of STATUS, and of a configured moving-average unit. -/
theorem test_status_word :
    { State.reset with event := 4#4, irqEn := 4#4, guardCnt := 1#16, tx := ⟨8#9, 0#9, true⟩ }.statusWord = 0x860#32 := by
  decide

/-- 30_encoding.md R127: withFetchWord places a command that the next step performs. -/
theorem test_withFetchWord :
    nextIs (step (State.reset.withFetchWord 32 0x00000102)) (·.crc == 0x807E#16) = true := by decide

/-! ### Witnesses: for every statement with hypotheses, a state and operands that meet them, each clause at its ends -/

/-- A state with one event pending. -/
def pendingOne (s : State) (e : AgentEvent) : State := { s with pending := [e] }

theorem test_witness_DecodeInvertsEncode :
    (Instr.crcTxbuf 0).WellFormed = true ∧ (Instr.maInit 255).WellFormed = true ∧
    (Instr.decode .b 65535).WellFormed = true := by decide

theorem test_witness_EncodeInvertsDecode :
    decode 0xFFFF0122#32 = .ok (.decode .b 65535) ∧ decode 0x0000FF40#32 = .ok (.maInit 255) := by decide

theorem test_witness_UndecodableWordsAreRejected_illegal :
    (pendingOne State.reset (.hostWrite 0x004#12 0x04#32)).pending = [.hostWrite 0x004#12 0x04#32] ∧
    opField 0x04#32 ∉ [0x00#8, 0x01#8, 0x02#8, 0x03#8, 0x10#8, 0x11#8, 0x12#8, 0x20#8, 0x21#8, 0x22#8, 0x30#8, 0x31#8,
      0x40#8, 0x41#8, 0xFF#8] := by decide

theorem test_witness_UndecodableWordsAreRejected_reserved :
    (pendingOne State.reset (.hostWrite 0x004#12 0x100#32)).pending = [.hostWrite 0x004#12 0x100#32] ∧
    opField 0x100#32 ∈ [0x00#8, 0x01#8, 0x02#8, 0x03#8, 0x10#8, 0x11#8, 0x12#8, 0x20#8, 0x21#8, 0x22#8, 0x30#8, 0x31#8,
      0x40#8, 0x41#8, 0xFF#8] ∧
    ∀ i : Instr, i.WellFormed = true → encode i ≠ 0x100#32 := by
  refine ⟨by decide, by decide, fun i _ h => ?_⟩
  have ho : i.opcode = 0x00#8 := (opField_encode i).symm.trans (congrArg opField h)
  cases i with
  | nop => revert h; decide
  | _ => simp [Instr.opcode] at ho

theorem test_witness_StepRunsTheDecodedCommand :
    (pendingOne State.reset (.hostWrite 0x004#12 0xFFFF0003#32)).pending = [.hostWrite 0x004#12 0xFFFF0003#32] ∧
    decode 0xFFFF0003#32 = .ok (.crcTxbuf 65535) ∧ (Instr.crcTxbuf 65535).WellFormed = true := by decide

/-- A frame of eight bytes ready to be sent. -/
def encoded : State := { withCells State.reset responseCells with tx := ⟨8#9, 0#9, false⟩ }
/-- Its transmission running, one byte before its end. -/
def sending : State := { encoded with tx := ⟨8#9, 7#9, true⟩ }

/-- A transmission of eight bytes at index `pos`, about to give a byte to the sink, with or without a pending XACT. -/
def sendingAt (pos : Len) (xact : Bool) : State :=
  { pendingOne encoded .txAccept with
    tx := ⟨8#9, pos, true⟩, rx := { encoded.rx with xactPend := xact } }

/-- The state after reset with a seeded median ring. -/
def medSeeded : State :=
  { State.reset with med := { State.reset.med with ring := Vector.replicate 3 ⟨1#32, Lanes.fill 5#16⟩, warm := true } }
/-- A receiver waiting for the first byte, its timeout one tick. -/
def armed : State := { State.reset with toNormal := 1#16 }.rxArm .b false

theorem test_witness_RejectedCommandChangesOnlyErr :
    commandError .maPush State.reset = some .notConfigured ∧ commandError (.crcTxbuf 261) State.reset = some .badLength ∧
    commandError (.xact .a true) sending = some .txBusy ∧ commandError (.decode .a 0) armed = some .rxBusy ∧
    commandError .txSend State.reset = some .txEmpty ∧ commandError (.maInit 2) State.reset = some .badWindow := by decide

theorem test_witness_AcceptedCommandKeepsErr :
    commandError .txSend encoded = none ∧ commandError (.crcTxbuf 260) State.reset = none ∧
    commandError .softReset sending = none := by decide

theorem test_witness_CrcAndFilterCommandsIgnoreTheWireSide :
    (Instr.crcByte 1#8 = .nop ∨ Instr.crcByte 1#8 = .crcInit ∨ (∃ b, Instr.crcByte 1#8 = .crcByte b) ∨
      (∃ n, Instr.crcByte 1#8 = .crcTxbuf n) ∨ Instr.crcByte 1#8 = .medInit ∨ Instr.crcByte 1#8 = .medPush ∨
      (∃ n, Instr.crcByte 1#8 = .maInit n) ∨ Instr.crcByte 1#8 = .maPush) ∧
    ∃ t, exec (.crcByte 1#8) sending = .next t := ⟨.inr (.inr (.inl ⟨_, rfl⟩)), _, rfl⟩

theorem test_witness_ResetEventRestoresTheTable : (pendingOne sending .reset).pending = [.reset] := rfl

/-- Ring contents that no run from reset has: every sample 7 in every lane. -/
def strayRing (k : Nat) : Vector Sample k := Vector.replicate k ⟨7#32, Lanes.fill 7#16⟩

/-- Both rings unwritten: stray contents in both. -/
theorem test_witness_UnwrittenRingsNeverShow :
    let s := pendingOne State.reset (commandEvent (encode .medPush))
    (s.med.warm = true → strayRing 3 = s.med.ring) ∧ (s.ma.n ≠ 0#4 → strayRing 15 = s.ma.ring) ∧
    ∃ t, step s = .next t :=
  ⟨nofun, fun h => absurd rfl h, _, rfl⟩

/-- The median ring seeded, the moving-average ring not configured yet: stray contents in the second alone. -/
theorem test_witness_UnwrittenRingsNeverShow_medianSeeded :
    let s := pendingOne medSeeded (commandEvent (encode (.maInit 3)))
    s.med.warm = true ∧ (s.med.warm = true → medSeeded.med.ring = s.med.ring) ∧
    (s.ma.n ≠ 0#4 → strayRing 15 = s.ma.ring) ∧ ∃ t, step s = .next t :=
  ⟨rfl, fun _ => rfl, fun h => absurd rfl h, _, rfl⟩

/-- The moving average configured, the median ring not seeded yet: stray contents in the median ring alone. -/
theorem test_witness_UnwrittenRingsNeverShow_maConfigured :
    let s := pendingOne { State.reset with ma := { State.reset.ma with n := 3#4 } } (commandEvent (encode .medPush))
    (s.med.warm = true → strayRing 3 = s.med.ring) ∧ s.ma.n ≠ 0#4 ∧
    (s.ma.n ≠ 0#4 → State.reset.ma.ring = s.ma.ring) ∧ ∃ t, step s = .next t :=
  ⟨nofun, by decide, fun _ => rfl, _, rfl⟩

theorem test_witness_CrcCommandResults : (0 : Nat) ≤ 260 ∧ (260 : Nat) ≤ 260 ∧ (260 : Nat) < 261 := by decide

theorem test_witness_CrcOfAByteSequence : (0x00#8 : Byte) ≠ 0x80#8 := by decide

theorem test_witness_EncodeAppendsTheCrc :
    (State.reset.tx.busy = false ∧ 0 ≤ 253 ∧ 253 ≤ 253) ∧ sending.tx.busy = true ∧
    (State.reset.tx.busy = false ∧ 253 < 254) := by decide

theorem test_witness_TxSendStartsTheTransmission :
    (encoded.tx.busy = false ∧ encoded.tx.len ≠ 0#9) ∧ sending.tx.busy = true ∧
    (State.reset.tx.busy = false ∧ State.reset.tx.len = 0#9) := by decide

theorem test_witness_TransmissionDeliversTheFrame :
    encoded.tx.busy = false ∧ encoded.tx.len ≠ 0#9 ∧ encoded.rx.xactPend = false ∧ encoded.guardCnt = 0#16 := by decide

/-- One take: the first byte of a frame, one before the last, the last without and with a pending XACT. -/
theorem test_witness_TransmissionDeliversTheFrame_take :
    (TransmitterInv (sendingAt 0#9 false) ∧ TransmitterInv (sendingAt 6#9 false) ∧
      TransmitterInv (sendingAt 7#9 false) ∧ TransmitterInv (sendingAt 7#9 true)) ∧
    (sendingAt 7#9 true).tx.busy = true ∧ (sendingAt 7#9 true).guardCnt = 0#16 ∧
    (sendingAt 7#9 true).pending = [.txAccept] ∧
    (sendingAt 0#9 false).tx.pos.toNat + 1 < (sendingAt 0#9 false).tx.len.toNat ∧
    (sendingAt 6#9 false).tx.pos.toNat + 1 < (sendingAt 6#9 false).tx.len.toNat ∧
    (sendingAt 7#9 false).tx.pos.toNat + 1 = (sendingAt 7#9 false).tx.len.toNat ∧
    (sendingAt 7#9 false).rx.xactPend = false ∧
    (sendingAt 7#9 true).tx.pos.toNat + 1 = (sendingAt 7#9 true).tx.len.toNat ∧
    (sendingAt 7#9 true).rx.xactPend = true :=
  ⟨⟨by constructor <;> decide, by constructor <;> decide, by constructor <;> decide, by constructor <;> decide⟩,
    by decide⟩

theorem test_witness_XactArmsWithTheLastByte :
    encoded.tx.busy = false ∧ encoded.rx.state.waiting = false ∧ encoded.rx.xactPend = false ∧ encoded.tx.len ≠ 0#9 ∧
    encoded.guardCnt = 0#16 ∧ 0 < encoded.tx.len.toNat ∧ 7 < encoded.tx.len.toNat := by decide

theorem test_witness_GuardHoldsTheTransmitter :
    ({ pendingOne sending .txAccept with guardCnt := 1#16 }.guardCnt ≠ 0#16 ∧
      { pendingOne sending .txAccept with guardCnt := 1#16 }.pending = [.txAccept]) ∧
    ({ sending with guardCnt := 5#16 }.tx.busy = true ∧ 0 ≤ { sending with guardCnt := 5#16 }.guardCnt.toNat ∧
      5 ≤ { sending with guardCnt := 5#16 }.guardCnt.toNat) := by decide

theorem test_witness_DecodeChecksTheFrame :
    (encoded.rx.state.waiting = false ∧ encoded.rx.xactPend = false ∧ 260 ≤ 260) ∧
    (armed.rx.state.waiting = true ∨ armed.rx.xactPend = true) ∧
    (encoded.rx.state.waiting = false ∧ encoded.rx.xactPend = false ∧ 260 < 261) := by decide

/-- The clauses inside R210's outcome: a frame that fits each shape, and each way not to fit. -/
theorem test_witness_DecodeChecksTheFrame_shapes :
    fitsShape .b ((withCells State.reset responseCells).rxBytes 8) ∧
    fitsShape .a ((withCells State.reset responseCells).rxBytes 5) ∧
    ¬ fitsShape .b ((withCells State.reset responseCells).rxBytes 7) ∧
    ¬ fitsShape .a ((withCells State.reset responseCells).rxBytes 2) ∧
    ¬ fitsShape .a ((withCells State.reset responseCells).rxBytes 6) ∧
    252 < ((withCells State.reset [(0x602, 253#8)]).rxByte 2).toNat ∧
    ((withCells State.reset [(0x602, 252#8)]).rxByte 2).toNat ≤ 252 := by
  refine ⟨(fitsShape_b_rxBytes _ _).mpr rfl, (fitsShape_a_rxBytes _ _).mpr (by decide),
    fun h => ?_, fun h => ?_, fun h => ?_, by decide, by decide⟩
  · exact absurd ((fitsShape_b_rxBytes _ _).mp h) (by decide)
  · exact absurd ((fitsShape_a_rxBytes _ _).mp h) (by decide)
  · exact absurd ((fitsShape_a_rxBytes _ _).mp h) (by decide)

/-- RXBUF holding what ENCODE left in TXBUF. -/
def copied (s : State) : State := { State.reset with mem := s.mem.map fun c => (c.1 + 0x200, c.2) }

/-- The round trip with a payload of four bytes, which fits shape B. -/
theorem test_witness_DecodeOfEncodedFrame :
    (withCells State.reset requestCells).tx.busy = false ∧ 4 ≤ 253 ∧
    exec (.encode 4) (withCells State.reset requestCells) = .next ((withCells State.reset requestCells).appendCrc 4) ∧
    (copied ((withCells State.reset requestCells).appendCrc 4)).rx.state.waiting = false ∧
    (copied ((withCells State.reset requestCells).appendCrc 4)).rx.xactPend = false ∧
    (∀ k : Nat, k < 8 →
      (copied ((withCells State.reset requestCells).appendCrc 4)).rxByte k =
        ((withCells State.reset requestCells).appendCrc 4).txByte k) ∧
    (∃ v, exec (.decode .b 8) (copied ((withCells State.reset requestCells).appendCrc 4)) = .next v) ∧
    (∃ v, exec (.decode .a 8) (copied ((withCells State.reset requestCells).appendCrc 4)) = .next v) :=
  ⟨rfl, by decide, rfl, rfl, rfl, by decide +kernel, ⟨_, rfl⟩, ⟨_, rfl⟩⟩

/-- A receiver that has seven bytes of the frame of R211's example, its last byte pending. -/
def oneByteShort : State :=
  { withCells State.reset responseCells with
    rx :=
      { state := .waitBody, shape := .b, scan := false, xactPend := false, len := 7#9, expect := 8#9, crcCalc := 0#16,
        crcRecv := 0#16, timer := 500#16 }
    pending := [.rxByte 0xF9#8] }

theorem test_witness_NoFabricatedFrame :
    ∃ t, step oneByteShort = .next t ∧ t.rx.state = .complete ∧ oneByteShort.rx.state ≠ .complete :=
  ⟨_, rfl, by decide +kernel, by decide⟩

theorem test_witness_NoFabricatedFrame_decode :
    ∃ t, step (pendingOne (withCells State.reset responseCells) (commandEvent (encode (.decode .b 8)))) = .next t ∧
      t.rx.state = .complete ∧ commandError (.decode .b 8) (withCells State.reset responseCells) = none :=
  ⟨_, rfl, by decide +kernel, by decide⟩

theorem test_witness_RxStartArms :
    (State.reset.rx.state.waiting = false ∧ State.reset.rx.xactPend = false) ∧
    (armed.rx.state.waiting = true ∨ armed.rx.xactPend = true) := by decide

theorem test_witness_XactStartsAndPends :
    (encoded.tx.busy = false ∧ encoded.rx.state.waiting = false ∧ encoded.rx.xactPend = false ∧ encoded.tx.len ≠ 0#9) ∧
    sending.tx.busy = true ∧
    (armed.tx.busy = false ∧ (armed.rx.state.waiting = true ∨ armed.rx.xactPend = true)) ∧
    (State.reset.tx.busy = false ∧ State.reset.rx.state.waiting = false ∧ State.reset.rx.xactPend = false ∧
      State.reset.tx.len = 0#9) := by decide

theorem test_witness_RxAbortStopsTheReceive :
    armed.rx.state.waiting = true ∧ State.reset.rx.state.waiting = false := by decide

theorem test_witness_ByteOutsideAReceiveIsDropped :
    (pendingOne State.reset (.rxByte 0x55#8)).rx.state.waiting = false ∧
    (pendingOne State.reset (.rxByte 0x55#8)).pending = [.rxByte 0x55#8] := by decide

/-- A receiver with this unit state and these bytes. -/
def receiving (rx : RxUnit) (m : Memory) : State := { withCells State.reset m with rx := rx }

theorem test_armed_inv : ReceiverInv armed := by constructor <;> decide

/-- Shape A with the address, or with the address and the function, stored. -/
def waitingHeader (len : Len) : State :=
  receiving ⟨.waitHeader, .a, true, false, len, 0#9, 0#16, 0#16, 3#16⟩ [(0x600, 1#8), (0x601, 3#8)]

/-- Shape A with a byte count of 0 stored, two bytes or one byte short of the frame. -/
def waitingBody (len : Len) : State :=
  receiving ⟨.waitBody, .a, true, false, len, 5#9, 0#16, 0#16, 3#16⟩
    [(0x600, 1#8), (0x601, 3#8), (0x602, 0#8), (0x603, 0x20#8)]

theorem test_witness_ByteInAReceive_address :
    ReceiverInv (pendingOne armed (.rxByte 1#8)) ∧ (pendingOne armed (.rxByte 1#8)).rx.state.waiting = true ∧
    (pendingOne armed (.rxByte 1#8)).pending = [.rxByte 1#8] ∧
    (pendingOne armed (.rxByte 1#8)).rx.state = .waitAddress :=
  ⟨by constructor <;> decide, by decide⟩

theorem test_witness_ByteInAReceive_function :
    ReceiverInv (pendingOne (waitingHeader 1#9) (.rxByte 3#8)) ∧
    (pendingOne (waitingHeader 1#9) (.rxByte 3#8)).rx.state = .waitHeader ∧
    (pendingOne (waitingHeader 1#9) (.rxByte 3#8)).rx.len = 1#9 :=
  ⟨by constructor <;> decide, by decide⟩

/-- The byte count at its limit and above it. -/
theorem test_witness_ByteInAReceive_byteCount :
    (ReceiverInv (pendingOne (waitingHeader 2#9) (.rxByte 252#8)) ∧
      ReceiverInv (pendingOne (waitingHeader 2#9) (.rxByte 253#8))) ∧
    (waitingHeader 2#9).rx.state = .waitHeader ∧ (waitingHeader 2#9).rx.len = 2#9 ∧ (252#8 : Byte).toNat ≤ 252 ∧
    252 < (253#8 : Byte).toNat :=
  ⟨⟨by constructor <;> decide, by constructor <;> decide⟩, by decide⟩

/-- A byte before the last one of a frame, and the last one. -/
theorem test_witness_ByteInAReceive_body :
    (ReceiverInv (pendingOne (waitingBody 3#9) (.rxByte 0x20#8)) ∧
      ReceiverInv (pendingOne (waitingBody 4#9) (.rxByte 0xF0#8))) ∧
    ((waitingBody 3#9).rx.state = .waitBody ∧ (waitingBody 3#9).rx.len.toNat + 1 < (waitingBody 3#9).rx.expect.toNat) ∧
    (waitingBody 4#9).rx.state = .waitBody ∧ (waitingBody 4#9).rx.len.toNat + 1 = (waitingBody 4#9).rx.expect.toNat :=
  ⟨⟨by constructor <;> decide, by constructor <;> decide⟩, by decide⟩

theorem test_witness_TickMovesBothCounters :
    (pendingOne armed .tick).pending = [.tick] ∧ (armed.rx.state.waiting = true ∧ armed.rx.timer.toNat ≤ 1) ∧
    ((waitingBody 3#9).rx.state.waiting = true ∧ 1 < (waitingBody 3#9).rx.timer.toNat) ∧
    State.reset.rx.state.waiting = false := by decide

/-- The longest frame of shape A (30_encoding.md R132): 257 bytes. -/
theorem test_longFrame_length :
    ((1#8 : Byte) :: 3#8 :: 252#8 :: List.replicate 254 0#8).length = (252#8 : Byte).toNat + 5 := by
  rw [List.length_cons, List.length_cons, List.length_cons, List.length_replicate]
  rfl

theorem test_witness_ReceiveOfAWholeFrame :
    State.reset.rx.state.waiting = false ∧ State.reset.rx.xactPend = false ∧ fitsShape .b (List.replicate 8 0#8) ∧
    fitsShape .a [1#8, 3#8, 0#8, 0x20#8, 0xF0#8] ∧ fitsShape .a (1#8 :: 3#8 :: 252#8 :: List.replicate 254 0#8) :=
  ⟨rfl, rfl, rfl, ⟨0#8, rfl, by decide, rfl⟩, ⟨252#8, rfl, by decide, test_longFrame_length⟩⟩

theorem test_witness_TruncatedFrameTimesOut :
    State.reset.rx.state.waiting = false ∧ State.reset.rx.xactPend = false ∧
    fitsShape .a [1#8, 3#8, 0#8, 0x20#8, 0xF0#8] ∧ 0 < [1#8, 3#8, 0#8, 0x20#8, 0xF0#8].length ∧
    4 < [1#8, 3#8, 0#8, 0x20#8, 0xF0#8].length ∧ max (State.reset.timeoutFor true).toNat 1 ≤ 100 :=
  ⟨rfl, rfl, ⟨0#8, rfl, by decide, rfl⟩, by decide, by decide, by decide⟩

theorem test_witness_ReceiveEndsWithinThreeTimeouts :
    ReceiverInv armed ∧ armed.rx.state = .waitAddress ∧ armed.rx.timer = armed.timeoutFor armed.rx.scan ∧
    3 * max (armed.timeoutFor armed.rx.scan).toNat 1 ≤ [AgentEvent.tick, .rxByte 1#8, .tick, .tick].count .tick ∧
    max (armed.timeoutFor armed.rx.scan).toNat 1 ≤ [AgentEvent.tick].length ∧
    (∀ e ∈ [AgentEvent.tick], e = .tick) ∧
    (∀ e ∈ [AgentEvent.tick, .rxByte 1#8, .tick, .tick], e = .tick ∨ ∃ b : Byte, e = .rxByte b) := by
  refine ⟨test_armed_inv, by decide, by decide, by decide, by decide, by decide, fun e he => ?_⟩
  simp only [List.mem_cons, List.not_mem_nil, or_false] at he
  rcases he with rfl | rfl | rfl | rfl
  · exact .inl rfl
  · exact .inr ⟨_, rfl⟩
  · exact .inl rfl
  · exact .inl rfl

theorem test_witness_MedPushFiltersOneSample :
    State.reset.med.warm = false ∧ { State.reset.med with warm := true }.warm = true ∧
    (0 : Fin 3) ≠ medAfter State.reset.med.idx 1 := by decide

theorem test_witness_LaneOutputFollowsTheSentinelRules :
    (0x8000#16 : Half) = 0x8000#16 ∧ ((0x7FFF#16 : Half) ≠ 0x8000#16 ∧ ((0x8000#16 : Half) = 0x8000#16 ∨ False)) ∧
    ((0x8001#16 : Half) ≠ 0x8000#16 ∧ (0#16 : Half) ≠ 0x8000#16 ∧ (0x7FFF#16 : Half) ≠ 0x8000#16) := by decide

theorem test_witness_MedianWindowIsTheLastThreeSamples :
    ∃ t u v, medPushOf (sampleOf 1#32 5#16) State.reset = .next t ∧ medPushOf (sampleOf 2#32 9#16) t = .next u ∧
      medPushOf (sampleOf 3#32 7#16) u = .next v := ⟨_, _, _, rfl, rfl, rfl⟩

theorem test_witness_MedianConvergesOnConstantInput :
    (sampleOf 1#32 0x8001#16).v.get 7 ≠ 0x8000#16 ∧
    (sampleOf 2#32 0x8001#16).v.get 7 = (sampleOf 1#32 0x8001#16).v.get 7 ∧ State.reset.med.warm = false ∧
    ∃ t u, medPushOf (sampleOf 1#32 0x8001#16) State.reset = .next t ∧
      medPushOf (sampleOf 2#32 0x8001#16) t = .next u := ⟨by decide, rfl, rfl, _, _, rfl, rfl⟩

theorem test_witness_MaInitConfiguresTheWindow :
    (3 ∈ [3, 5, 7, 9, 11, 13, 15] ∧ 15 ∈ [3, 5, 7, 9, 11, 13, 15]) ∧
    (2 ∉ [3, 5, 7, 9, 11, 13, 15] ∧ 4 ∉ [3, 5, 7, 9, 11, 13, 15] ∧ 16 ∉ [3, 5, 7, 9, 11, 13, 15]) := by decide

/-- The unit of the example of R315, TS_VALID as four pushes leave it. -/
def fourPushedValid : State := { fourPushed with ma := { fourPushed.ma with tsv := true } }

theorem test_fourPushedValid_inv : MovingAverageInv fourPushedValid := by constructor <;> decide

theorem test_witness_MaPushStoresAndAdvances :
    MovingAverageInv fourPushedValid ∧ fourPushedValid.ma.n ≠ 0#4 ∧ (0 : Fin 15) ≠ fourPushedValid.ma.widx ∧
    ((2 : Fin 15).val < fourPushedValid.ma.n.toNat ∧
      ((2 : Fin 15).val + (fourPushedValid.ma.n.toNat - 1) / 2) % fourPushedValid.ma.n.toNat =
        fourPushedValid.ma.widx.val) ∧
    State.reset.ma.n = 0#4 := ⟨test_fourPushedValid_inv, by decide⟩

theorem test_witness_MovingAverageOfTheLastSamples :
    ∃ t u, 3 ∈ [3, 5, 7, 9, 11, 13, 15] ∧ exec (.maInit 3) State.reset = .next t ∧
      maPushAll [sampleOf 1#32 1#16, sampleOf 2#32 0x8000#16, sampleOf 3#32 2#16] t = .next u :=
  ⟨_, _, by decide, rfl, rfl⟩

theorem test_witness_RoundingIsNearestTiesAway :
    0 < 2 ∧ 2 * |roundHalfAway 5 2 * (2 : Nat) - 5| = (2 : Nat) := by decide

theorem test_witness_MaOutputLiesAmongTheReadings :
    MovingAverageInv fourPushedValid ∧ fourPushedValid.ma.n ≠ 0#4 ∧ ∃ t, exec .maPush fourPushedValid = .next t ∧ t.ma.den.get 0 ≠ 0#5 ∧
      ∀ k : Fin 15, t.ma.ring[k].v.get 0 ≠ 0x8000#16 →
        10 ≤ (t.ma.ring[k].v.get 0).toInt ∧ (t.ma.ring[k].v.get 0).toInt ≤ 50 :=
  ⟨test_fourPushedValid_inv, by decide, _, rfl, by decide, by decide⟩

/-- A window of three whose samples so far are all 7, one more 7 at the input. -/
def constantSeven : State :=
  { State.reset with
    ma :=
      { State.reset.ma with
        n := 3#4, widx := 1, seen := 1#4, tsIn := 2#32, inp := Lanes.fill 7#16
        ring := (Vector.replicate 15 Sample.cleared).set 0 (sampleOf 1#32 7#16) } }

theorem test_constantSeven_inv : MovingAverageInv constantSeven := by constructor <;> decide

theorem test_witness_MaConstantInputGivesTheConstant :
    MovingAverageInv constantSeven ∧ constantSeven.ma.n ≠ 0#4 ∧ (7#16 : Half) ≠ 0x8000#16 ∧ constantSeven.ma.inp.get 0 = 7#16 ∧
    ∃ t, exec .maPush constantSeven = .next t ∧
      ∀ k : Fin 15, t.ma.ring[k].v.get 0 = 7#16 ∨ t.ma.ring[k].v.get 0 = 0x8000#16 :=
  ⟨test_constantSeven_inv, by decide, by decide, by decide, _, rfl, by decide⟩

/-- A full window of three unavailable samples, its outputs those of the fifth push of R315's example in every lane. -/
def steady : State :=
  { State.reset with
    ma :=
      { State.reset.ma with
        n := 3#4, widx := 0, seen := 3#4, tsv := true, out := Lanes.fill 30#16, num := Lanes.fill 240#32,
        den := Lanes.fill 8#5, ring := Vector.replicate 15 Sample.cleared }
    pending := [.tick] }

theorem test_steady_inv : MovingAverageInv steady := by constructor <;> decide

theorem test_witness_SteadyStatePersists :
    MovingAverageInv steady ∧ steady.ma.n ≠ 0#4 ∧ steady.ma.seen = steady.ma.n ∧ steady.pending = [.tick] ∧ (∃ t, step steady = .next t) ∧
    AgentEvent.tick ≠ .reset ∧ (∀ n : Nat, n < 2 ^ 8 → AgentEvent.tick ≠ commandEvent (encode (.maInit n))) ∧
    AgentEvent.tick ≠ commandEvent (encode .softReset) :=
  ⟨test_steady_inv, by decide, rfl, rfl, ⟨_, rfl⟩, by decide, fun _ _ => by simp [commandEvent], by simp [commandEvent]⟩

/-- `mappedAddress` at the ends of the map's ranges and beside them (20_memory.md R91). -/
theorem test_mappedAddress :
    mappedAddress 0x000 ∧ mappedAddress 0x044 ∧ ¬ mappedAddress 0x048 ∧ mappedAddress 0x050 ∧ mappedAddress 0x098 ∧
    ¬ mappedAddress 0x09C ∧ mappedAddress 0x11C ∧ ¬ mappedAddress 0x120 ∧ mappedAddress 0x400 ∧ mappedAddress 0x500 ∧
    ¬ mappedAddress 0x504 ∧ mappedAddress 0x600 ∧ mappedAddress 0x700 ∧ ¬ mappedAddress 0x704 ∧ ¬ mappedAddress 0x001 := by
  simp [mappedAddress]

theorem test_witness_BusErrorChangesNothing :
    ((0x400 ≤ (0x400#12).toNat ∧ (0x400#12).toNat < 0x504) ∧ (0x400 ≤ (0x500#12).toNat ∧ (0x500#12).toNat < 0x504) ∧
      sending.tx.busy = true) ∧
    ((0x600 ≤ (0x700#12).toNat ∧ (0x700#12).toNat < 0x704) ∧ armed.rx.state.waiting = true) ∧
    (pendingOne sending (.hostWrite 0x500#12 0#32)).pending = [.hostWrite 0x500#12 0#32] ∧
    (pendingOne sending (.hostRead 0x048#12)).pending = [.hostRead 0x048#12] := by decide

theorem test_witness_MappedReadsHaveNoSideEffect :
    mappedAddress (0x700#12).toNat ∧ (pendingOne encoded (.hostRead 0x700#12)).pending = [.hostRead 0x700#12] := by
  unfold mappedAddress
  decide

theorem test_witness_BufferWordWriteThenRead :
    ((0x500#12).toNat % 4 = 0 ∧ 0x400 ≤ (0x500#12).toNat ∧ (0x500#12).toNat < 0x504 ∧ encoded.tx.busy = false) ∧
    ((0x700#12).toNat % 4 = 0 ∧ 0x600 ≤ (0x700#12).toNat ∧ (0x700#12).toNat < 0x704 ∧
      sending.rx.state.waiting = false ∧ sending.rx.xactPend = false) ∧
    (pendingOne sending (.hostWrite 0x700#12 5#32)).pending = [.hostWrite 0x700#12 5#32] := by decide

theorem test_witness_RegisterWritesFollowTheAccessTypes :
    mappedAddress (0x00C#12).toNat ∧ mappedAddress (0x06C#12).toNat ∧ mappedAddress (0x11C#12).toNat ∧
    (0x11C#12).toNat < 0x120 ∧ (0x11C#12 : Addr) ≠ 0x004#12 ∧
    (pendingOne encoded (.hostWrite 0x11C#12 5#32)).pending = [.hostWrite 0x11C#12 5#32] := by
  unfold mappedAddress
  decide

theorem test_witness_EventBitsFallOnlyByTheHost :
    (pendingOne armed .tick).pending = [.tick] ∧ (∃ t, step (pendingOne armed .tick) = .next t) ∧
    AgentEvent.tick ≠ .reset ∧ AgentEvent.tick ≠ commandEvent (encode .softReset) ∧
    ∀ d : Word, AgentEvent.tick ≠ .hostWrite 0x00C#12 d :=
  ⟨rfl, ⟨_, rfl⟩, by decide, by simp [commandEvent], fun _ => by simp⟩

theorem test_witness_IrqIsTheLevelOfEnabledEvents :
    (pendingOne { State.reset with event := 9#4 } (.hostWrite 0x00C#12 9#32)).pending = [.hostWrite 0x00C#12 9#32] ∧
    (9#32 : Word).extractLsb' 0 4 = { State.reset with event := 9#4 }.event := by decide

theorem test_witness_StepKeepsTheTransmitterInvariant :
    TransmitterInv (pendingOne sending .txAccept) ∧ ∃ t, step (pendingOne sending .txAccept) = .next t :=
  ⟨by constructor <;> decide, _, rfl⟩

theorem test_witness_StepKeepsTheReceiverInvariant :
    ReceiverInv (pendingOne armed (.rxByte 1#8)) ∧ ∃ t, step (pendingOne armed (.rxByte 1#8)) = .next t :=
  ⟨by constructor <;> decide, _, rfl⟩

theorem test_witness_StepKeepsTheMovingAverageInvariant :
    MovingAverageInv (pendingOne fourPushedValid (commandEvent (encode .maPush))) ∧
    ∃ t, step (pendingOne fourPushedValid (commandEvent (encode .maPush))) = .next t :=
  ⟨by constructor <;> decide, _, rfl⟩

/-- Both ends of R204: a take that is offered, and one that is not. -/
theorem test_witness_OnlyADisabledTakeStops :
    (ReceiverInv (pendingOne sending .txAccept) ∧ ∃ t, step (pendingOne sending .txAccept) = .next t) ∧
    ReceiverInv (pendingOne encoded .txAccept) ∧
    step (pendingOne encoded .txAccept) = .fault .txAcceptNotEnabled :=
  ⟨⟨by constructor <;> decide, _, rfl⟩, by constructor <;> decide, rfl⟩

end Sys2Proof.Tests
end

/-! Proofs of the statements on the state (10_state.md): what every step keeps, the register file, the reset values. -/

namespace Sys2Proof

namespace Machine

/-! ### What a register write and ENCODE do to the units and the buffers -/

@[simp] theorem State.writeReg_tx (s : State) (r : Reg) (d : Word) : (s.writeReg r d).tx = s.tx := by
  cases r <;> rfl

@[simp] theorem State.writeReg_rx (s : State) (r : Reg) (d : Word) : (s.writeReg r d).rx = s.rx := by
  cases r <;> rfl

@[simp] theorem State.writeReg_err (s : State) (r : Reg) (d : Word) : (s.writeReg r d).err = s.err := by
  cases r <;> rfl

@[simp] theorem State.writeReg_guardCnt (s : State) (r : Reg) (d : Word) :
    (s.writeReg r d).guardCnt = s.guardCnt := by
  cases r <;> rfl

/-- A register write reaches the inputs of the median unit alone (10_state.md R48, R49). -/
theorem State.writeReg_med (s : State) (r : Reg) (d : Word) :
    (s.writeReg r d).med =
      { s.med with tsIn := (s.writeReg r d).med.tsIn, inp := (s.writeReg r d).med.inp } := by
  cases r <;> rfl

/-- A register write reaches the inputs of the moving-average unit alone (10_state.md R52, R53). -/
theorem State.writeReg_ma (s : State) (r : Reg) (d : Word) :
    (s.writeReg r d).ma = { s.ma with tsIn := (s.writeReg r d).ma.tsIn, inp := (s.writeReg r d).ma.inp } := by
  cases r <;> rfl

/-- The byte addresses of the two buffers, as numbers (20_memory.md R91). -/
theorem bufferAddress_iff (a : Nat) :
    bufferAddress a ↔ (0x400 ≤ a ∧ a < 0x504) ∨ (0x600 ≤ a ∧ a < 0x704) := Iff.rfl

/-- The four bytes of a TXBUF word are buffer bytes (20_memory.md R93). -/
theorem bufferAddress_txBuf (k : Fin 65) {j : Nat} (hj : j < 4) : bufferAddress ((Reg.txBuf k).address + j) := by
  have ha : (Reg.txBuf k).address = 0x400 + 4 * k.val := rfl
  rw [bufferAddress_iff, ha]
  omega

/-- The four bytes of an RXBUF word are buffer bytes (20_memory.md R93). -/
theorem bufferAddress_rxBuf (k : Fin 65) {j : Nat} (hj : j < 4) : bufferAddress ((Reg.rxBuf k).address + j) := by
  have ha : (Reg.rxBuf k).address = 0x600 + 4 * k.val := rfl
  rw [bufferAddress_iff, ha]
  omega

theorem bufferAddress_txAddr {i : Nat} (hi : i < 260) : bufferAddress (txAddr i) :=
  .inl ⟨Nat.le_add_right _ _, Nat.add_lt_add_left hi _⟩

theorem bufferAddress_rxAddr {i : Nat} (hi : i < 260) : bufferAddress (rxAddr i) :=
  .inr ⟨Nat.le_add_right _ _, Nat.add_lt_add_left hi _⟩

/-- A register write keeps the canonical form of the memory. -/
theorem State.writeReg_wf {s : State} (r : Reg) (d : Word) (h : Memory.wf s.mem) :
    Memory.wf (s.writeReg r d).mem := by
  cases r with
  | txBuf k =>
    exact State.setWord_wf d h (bufferAddress_txBuf k (j := 0) (by decide)) (bufferAddress_txBuf k (by decide))
      (bufferAddress_txBuf k (by decide)) (bufferAddress_txBuf k (by decide))
  | rxBuf k =>
    exact State.setWord_wf d h (bufferAddress_rxBuf k (j := 0) (by decide)) (bufferAddress_rxBuf k (by decide))
      (bufferAddress_rxBuf k (by decide)) (bufferAddress_rxBuf k (by decide))
  | _ => exact h

/-- ENCODE's two CRC bytes keep the canonical form of the memory (42_codec.md R200). -/
theorem State.appendCrc_wf {s : State} {len : Nat} (hlen : len ≤ 253) (h : Memory.wf s.mem) :
    Memory.wf (s.appendCrc len).mem :=
  Memory.write_wf _ (Memory.write_wf _ h (bufferAddress_txAddr (by omega))) (bufferAddress_txAddr (by omega))

theorem State.appendCrc_tx (s : State) (len : Nat) :
    (s.appendCrc len).tx = { s.tx with len := BitVec.ofNat 9 (len + 4), pos := 0#9 } := rfl

/-- A received byte stored in the buffer keeps the canonical form of the memory (43_receive.md R235). -/
theorem State.storeReceived_wf {s : State} (b : Byte) (hlen : s.rx.len.toNat < 260) (h : Memory.wf s.mem) :
    Memory.wf (s.storeReceived b).mem := Memory.write_wf b h (bufferAddress_rxAddr hlen)

/-! ### What a byte just stored leaves alone -/

/-- After its byte is stored a receive changes the receive unit, RX_DONE and the guard (43_receive.md R235..R239). -/
theorem State.afterStored_frame (s : State) :
    ∃ rx event guardCnt, s.afterStored = { s with rx := rx, event := event, guardCnt := guardCnt } := by
  cases hw : s.rx.state.waiting with
  | false =>
    have h : s.afterStored = s := by
      unfold State.afterStored
      split <;> simp_all
    exact ⟨_, _, _, h⟩
  | true =>
    rcases State.afterStored_cases s hw with ⟨-, h⟩ | ⟨-, -, h⟩ | ⟨-, -, -, h⟩ | ⟨-, -, -, h⟩ | ⟨-, -, h⟩ | ⟨-, -, h⟩ <;>
      exact ⟨_, _, _, h⟩

/-- A tick on the timeout counter changes the receive unit, RX_DONE and the guard (43_receive.md R241, R242). -/
theorem State.tickTimer_frame (s : State) :
    ∃ rx event guardCnt, s.tickTimer = { s with rx := rx, event := event, guardCnt := guardCnt } := by
  rcases State.tickTimer_cases s with ⟨-, h⟩ | ⟨-, -, h⟩ | ⟨-, -, h⟩ <;> exact ⟨_, _, _, h⟩

/-- The end of a transmission clears TX_BUSY in the transmitter and touches no memory (42_codec.md R204). -/
theorem State.endTransmission_frame (s : State) :
    ∃ rx event, s.endTransmission = { s with tx := { s.tx with busy := false }, rx := rx, event := event } := by
  rcases State.endTransmission_cases s with ⟨-, h⟩ | ⟨-, h⟩ <;> exact ⟨_, _, h⟩

/-- An index or length below the top of its 9 bits is counted up without wrapping (00_scope.md R13). -/
theorem toNat_len_succ {x : Len} (h : x.toNat < 511) : (x + 1#9).toNat = x.toNat + 1 :=
  BitVec.toNat_add_of_lt (by simpa using Nat.succ_lt_succ h)

/-! ### Error codes -/

/-- Every error has a number 1..8 (60_exceptions.md R350). -/
theorem errNumber_le (e : ErrCode) : (errNumber e).toNat ≤ 8 := by
  cases e <;> decide

/-- `ERR.CODE` after a rejection is the error's number (60_exceptions.md R351). -/
theorem State.rejectCommand_errCode (s : State) (op : Byte) (e : ErrCode) :
    (s.rejectCommand op e).err.extractLsb' 0 8 = errNumber e := by
  have : BitVec.extractLsb' (n := 8 + 8) 0 8 (op ++ errNumber e) = errNumber e := by
    ext i hi
    simp only [BitVec.getElem_extractLsb', BitVec.getLsbD_append]
    simp [hi]
  exact this

end Machine

open Machine

/-! ### The transmitter's invariant -/

/-- The invariant speaks of the memory's form, the transmitter and ERR alone. -/
theorem TransmitterInv.of_frame {s t : State} (hs : TransmitterInv s) (hmem : Memory.wf t.mem) (htx : t.tx = s.tx)
    (herr : t.err = s.err) : TransmitterInv t where
  memory := hmem
  lenRange := htx ▸ hs.lenRange
  posLe := htx ▸ hs.posLe
  busyPos := htx ▸ hs.busyPos
  errCode := herr ▸ hs.errCode

/-- A rejection records a code of 60_exceptions.md R350. -/
theorem TransmitterInv.reject {s : State} (hs : TransmitterInv s) (op : Byte) (e : ErrCode) :
    TransmitterInv (s.rejectCommand op e) where
  memory := hs.memory
  lenRange := hs.lenRange
  posLe := hs.posLe
  busyPos := hs.busyPos
  errCode := by rw [State.rejectCommand_errCode]; exact errNumber_le e

/-- A transmission starts at index 0 of a frame that is there (42_codec.md R202, 43_receive.md R232). -/
theorem TransmitterInv.start {s t : State} (hs : TransmitterInv s) (hlen : s.tx.len ≠ 0#9) (hmem : t.mem = s.mem)
    (htx : t.tx = { s.tx with pos := 0#9, busy := true }) (herr : t.err = s.err) : TransmitterInv t where
  memory := hmem ▸ hs.memory
  lenRange := by rw [htx]; exact hs.lenRange
  posLe := by rw [htx]; exact Nat.zero_le _
  busyPos _ := by rw [htx]; exact Nat.pos_of_ne_zero fun h => hlen (BitVec.eq_of_toNat_eq h)
  errCode := herr ▸ hs.errCode

/-- ENCODE makes a frame of 4 to 257 bytes (42_codec.md R200). -/
theorem TransmitterInv.appendCrc {s : State} {len : Nat} (hs : TransmitterInv s) (hlen : len ≤ 253)
    (hbusy : s.tx.busy = false) : TransmitterInv (s.appendCrc len) := by
  have hl : (BitVec.ofNat 9 (len + 4)).toNat = len + 4 := by
    rw [BitVec.toNat_ofNat]
    exact Nat.mod_eq_of_lt (by omega)
  exact
    { memory := State.appendCrc_wf hlen hs.memory
      lenRange := by
        rw [State.appendCrc_tx]
        simp only [hl]
        omega
      posLe := Nat.zero_le _
      busyPos := fun h => by rw [State.appendCrc_tx, hbusy] at h; cases h
      errCode := hs.errCode }

/-- Every state with an idle, empty transmitter, no error and a canonical memory meets the invariant: Reset and
SOFT_RESET (10_state.md R64). -/
theorem TransmitterInv.of_reset {t : State} (hmem : Memory.wf t.mem) (htx : t.tx = State.reset.tx)
    (herr : t.err = State.reset.err) : TransmitterInv t where
  memory := hmem
  lenRange := by rw [htx]; exact .inl rfl
  posLe := by rw [htx]; exact Nat.le_refl _
  busyPos := by rw [htx]; exact fun h => nomatch h
  errCode := by rw [herr]; decide

/-- Every command keeps the transmitter's invariant. -/
theorem TransmitterInv.exec {i : Instr} {s t : State} (hs : TransmitterInv s) (h : exec i s = .next t) :
    TransmitterInv t := by
  cases i with
  | nop | crcInit | crcByte | medInit | medPush =>
    cases h
    exact hs.of_frame hs.memory rfl rfl
  | crcTxbuf =>
    rcases execCrcTxbuf_cases h with ⟨-, rfl⟩ | ⟨-, rfl⟩
    · exact hs.reject _ _
    · exact hs.of_frame hs.memory rfl rfl
  | encode =>
    rcases execEncode_cases h with ⟨-, rfl⟩ | ⟨-, -, rfl⟩ | ⟨hbusy, hlen, rfl⟩
    · exact hs.reject _ _
    · exact hs.reject _ _
    · exact hs.appendCrc hlen hbusy
  | txSend =>
    rcases execTxSend_cases h with ⟨-, rfl⟩ | ⟨-, -, rfl⟩ | ⟨-, hlen, rfl⟩
    · exact hs.reject _ _
    · exact hs.reject _ _
    · exact hs.start hlen rfl rfl rfl
  | xact =>
    rcases execXact_cases h with ⟨-, rfl⟩ | ⟨-, -, rfl⟩ | ⟨-, -, -, rfl⟩ | ⟨-, -, hlen, rfl⟩
    · exact hs.reject _ _
    · exact hs.reject _ _
    · exact hs.reject _ _
    · exact hs.start hlen rfl rfl rfl
  | rxStart =>
    rcases execRxStart_cases h with ⟨-, rfl⟩ | ⟨-, rfl⟩
    · exact hs.reject _ _
    · exact hs.of_frame hs.memory rfl rfl
  | rxAbort =>
    rcases execRxAbort_cases h with ⟨-, rfl⟩ | ⟨-, rfl⟩ <;> exact hs.of_frame hs.memory rfl rfl
  | decode =>
    rcases execDecode_cases h with ⟨-, rfl⟩ | ⟨-, -, rfl⟩ | ⟨-, -, rfl⟩
    · exact hs.reject _ _
    · exact hs.reject _ _
    · exact hs.of_frame hs.memory rfl rfl
  | maInit =>
    rcases execMaInit_cases h with ⟨-, rfl⟩ | ⟨-, rfl⟩
    · exact hs.reject _ _
    · exact hs.of_frame hs.memory rfl rfl
  | maPush =>
    rcases execMaPush_cases h with ⟨-, rfl⟩ | ⟨-, rfl⟩
    · exact hs.reject _ _
    · exact hs.of_frame hs.memory rfl rfl
  | softReset =>
    cases h
    exact .of_reset hs.memory rfl rfl

/-- A received byte touches the memory alone of what the invariant speaks of. -/
theorem TransmitterInv.rxByte {b : Byte} {s t : State} (hs : TransmitterInv s) (h : rxByteEvent b s = .next t) :
    TransmitterInv t := by
  rcases rxByteEvent_cases h with ⟨-, rfl⟩ | ⟨-, hlen, rfl⟩
  · exact hs.of_frame hs.memory rfl rfl
  · obtain ⟨_, _, _, ht⟩ := State.afterStored_frame (s.storeReceived b)
    rw [ht]
    exact hs.of_frame (State.storeReceived_wf b hlen hs.memory) rfl rfl

/-- A take moves TX_POS up, below TX_LEN until the transmission ends (42_codec.md R204). -/
theorem TransmitterInv.txAccept {s t : State} (hs : TransmitterInv s) (h : txAcceptEvent s = .next t) :
    TransmitterInv t := by
  obtain ⟨hvalid, hend⟩ := txAcceptEvent_cases h
  have hbusy : s.tx.busy = true := (Bool.and_eq_true_iff.mp hvalid).1
  have hlt := hs.busyPos hbusy
  have hpos : (s.tx.pos + 1#9).toNat = s.tx.pos.toNat + 1 :=
    toNat_len_succ (Nat.lt_of_lt_of_le hlt (Nat.le_of_lt_succ s.tx.len.isLt))
  rcases hend with ⟨heq, rfl⟩ | ⟨hne, rfl⟩
  · obtain ⟨_, _, ht⟩ := State.endTransmission_frame
      { s with tx := { s.tx with pos := s.tx.pos + 1#9 }, txLine := s.txLine ++ [s.txByte s.tx.pos.toNat] }
    rw [ht]
    exact ⟨hs.memory, hs.lenRange, hpos ▸ hlt, Bool.noConfusion, hs.errCode⟩
  · have hne' : (s.tx.pos + 1#9).toNat ≠ s.tx.len.toNat := fun e => hne (BitVec.eq_of_toNat_eq e)
    refine ⟨hs.memory, hs.lenRange, hpos ▸ hlt, fun _ => ?_, hs.errCode⟩
    show (s.tx.pos + 1#9).toNat < s.tx.len.toNat
    omega

/-- Settles O57: each event keeps the bounds, the transmitter's by ENCODE's length and the take's index. -/
theorem stepKeepsTheTransmitterInvariant : Obligations.StepKeepsTheTransmitterInvariant := by
  intro s t hs h
  refine step_keeps (P := TransmitterInv) (fun s r p hs => hs.of_frame hs.memory rfl rfl)
    (fun s op c hs => hs.reject op c) (fun i s t hs => hs.exec)
    (fun s r d _ _ hs => hs.of_frame (State.writeReg_wf r d hs.memory) (by simp) (by simp))
    (fun b s t hs => hs.rxByte) (fun s t hs => hs.txAccept) ?_ ?_ ?_ hs h
  · intro s hs
    obtain ⟨_, _, _, ht⟩ := State.tickTimer_frame s
    rw [ht]
    exact hs.of_frame hs.memory rfl rfl
  · intro s hs
    rw [State.tickGuard_eq]
    exact hs.of_frame hs.memory rfl rfl
  · intro s hs
    exact .of_reset Memory.nil_wf rfl rfl

end Sys2Proof

namespace Sys2Proof

namespace Machine

/-! ### What changes a byte of RXBUF -/

/-- A word set at an address beyond reach of a byte leaves the byte alone (20_memory.md R93). -/
theorem State.byteAt_setWord_of_disjoint (s : State) {a b : Nat} (d : Word) (h : b < a ∨ a + 4 ≤ b) :
    (s.setWord a d).byteAt b = s.byteAt b := by
  rw [State.byteAt_setWord, if_neg (by omega), if_neg (by omega), if_neg (by omega), if_neg (by omega)]

/-- A register write that is no write to RXBUF leaves RXBUF alone. -/
theorem State.rxByte_writeReg {s : State} {r : Reg} (d : Word) (hr : ∀ k, r ≠ .rxBuf k) (i : Nat) :
    (s.writeReg r d).rxByte i = s.rxByte i := by
  cases r with
  | txBuf k =>
    refine State.byteAt_setWord_of_disjoint s d (.inr ?_)
    have ha : (Reg.txBuf k).address = 0x400 + 4 * k.val := rfl
    have hi : rxAddr i = 0x600 + i := rfl
    omega
  | rxBuf k => exact absurd rfl (hr k)
  | _ => rfl

/-- ENCODE leaves RXBUF alone (42_codec.md R200). -/
theorem State.rxByte_appendCrc {s : State} {len : Nat} (hlen : len ≤ 253) (i : Nat) :
    (s.appendCrc len).rxByte i = s.rxByte i := by
  have hi : rxAddr i = 0x600 + i := rfl
  have hlo : txAddr (len + 2) = 0x400 + (len + 2) := rfl
  have hhi : txAddr (len + 3) = 0x400 + (len + 3) := rfl
  refine (State.byteAt_setByte _ _ _ _).trans ?_
  rw [if_neg (by omega), State.byteAt_setByte, if_neg (by omega)]
  rfl

/-- RXBUF after a received byte is stored: the byte at RX_LEN, every other byte as before (43_receive.md R235). -/
theorem State.rxByte_storeReceived (s : State) (b : Byte) (i : Nat) :
    (s.storeReceived b).rxByte i = if i = s.rx.len.toNat then b else s.rxByte i := by
  have hi : rxAddr i = rxAddr s.rx.len.toNat ↔ i = s.rx.len.toNat := Nat.add_left_cancel_iff
  exact (State.byteAt_setByte s _ _ b).trans (if_congr hi rfl rfl)

/-! ### What a frame check answers -/

/-- The lengths a frame check expects: none, or 5 to 257 bytes (10_state.md R45, 42_codec.md R210). -/
theorem State.frameCheck_expect_range (s : State) (sh : Shape) (len : Nat) :
    (s.frameCheck sh len).expect = 0#9 ∨
      (5 ≤ (s.frameCheck sh len).expect.toNat ∧ (s.frameCheck sh len).expect.toNat ≤ 257) := by
  have hrange : ∀ n, 5 ≤ n → n ≤ 257 → 5 ≤ (BitVec.ofNat 9 n).toNat ∧ (BitVec.ofNat 9 n).toNat ≤ 257 := by
    intro n h5 h257
    rw [BitVec.toNat_ofNat, Nat.mod_eq_of_lt (by omega)]
    exact ⟨h5, h257⟩
  by_cases hfit : fitsShape sh (s.rxBytes len)
  · rw [State.frameCheck_of_fits hfit]
    cases sh with
    | a =>
      obtain ⟨h3, h252, hlen⟩ := (fitsShape_a_rxBytes s len).mp hfit
      exact .inr (hrange len (by omega) (by omega))
    | b =>
      have hlen := (fitsShape_b_rxBytes s len).mp hfit
      exact .inr (hrange len (by omega) (by omega))
  · obtain ⟨-, -, -, hb, hnone, hsome⟩ := State.frameCheck_of_not_fits hfit
    cases sh with
    | b => rw [hb rfl]; exact .inr (by decide)
    | a =>
      by_cases hcount : len < 3 ∨ 252 < (s.rxByte 2).toNat
      · exact .inl (hnone rfl hcount)
      · rw [hsome rfl (by omega) (by omega)]
        exact .inr (hrange _ (by omega) (by omega))

/-- A frame check ends in FRAMING_ERROR with no CRC, or compares the two CRCs of a frame of the expected length
(42_codec.md R210). -/
theorem State.frameCheck_cases (s : State) (sh : Shape) (len : Nat) :
    ((s.frameCheck sh len).state = .framingError ∧
      (s.frameCheck sh len).crcCalc = 0#16 ∧ (s.frameCheck sh len).crcRecv = 0#16) ∨
    ((s.frameCheck sh len).state = .complete ∧ (s.frameCheck sh len).expect = BitVec.ofNat 9 len ∧
      (s.frameCheck sh len).crcCalc = (s.frameCheck sh len).crcRecv) ∨
    ((s.frameCheck sh len).state = .crcError ∧ (s.frameCheck sh len).expect = BitVec.ofNat 9 len ∧
      (s.frameCheck sh len).crcCalc ≠ (s.frameCheck sh len).crcRecv) := by
  by_cases hfit : fitsShape sh (s.rxBytes len)
  · rw [State.frameCheck_of_fits hfit]
    by_cases hcrc : computedCrc (s.rxBytes len) = carriedCrc (s.rxBytes len)
    · exact .inr (.inl ⟨if_pos hcrc, rfl, hcrc⟩)
    · exact .inr (.inr ⟨if_neg hcrc, rfl, hcrc⟩)
  · obtain ⟨hstate, hcalc, hrecv, -⟩ := State.frameCheck_of_not_fits hfit
    exact .inl ⟨hstate, hcalc, hrecv⟩

end Machine

open Machine

/-! ### The receive unit's invariant, by the state the receiver is in -/

/-- The invariant speaks of the receive unit, of the transmission a pending XACT waits for, and, while the body is
received, of the byte count. -/
theorem ReceiverInv.of_frame {s t : State} (hs : ReceiverInv s) (hrx : t.rx = s.rx)
    (hbusy : s.rx.xactPend = true → s.tx.busy = true → t.tx.busy = true)
    (hcount : s.rx.state = .waitBody → t.rxByte 2 = s.rxByte 2) : ReceiverInv t where
  pending h := by
    rw [hrx] at h ⊢
    obtain ⟨hb, hidle⟩ := hs.pending h
    exact ⟨hbusy h hb, hidle⟩
  timerIdle := hrx ▸ hs.timerIdle
  lenRange := hrx ▸ hs.lenRange
  expectRange := hrx ▸ hs.expectRange
  crcCleared := hrx ▸ hs.crcCleared
  address := hrx ▸ hs.address
  header := hrx ▸ hs.header
  body h := by
    rw [hrx] at h ⊢
    rw [hcount h]
    exact hs.body h
  complete := hrx ▸ hs.complete
  crcError := hrx ▸ hs.crcError

/-- No XACT is pending while the receiver waits. -/
theorem ReceiverInv.not_pending_of_waiting {s : State} (hs : ReceiverInv s) (hw : s.rx.state.waiting = true) :
    s.rx.xactPend = false := by
  by_contra h
  obtain ⟨-, hidle⟩ := hs.pending (by simpa using h)
  rw [hidle] at hw
  cases hw

/-- A receiver that does not wait: only its terminal state says something of the CRCs and the lengths. -/
theorem ReceiverInv.of_not_waiting {t : State} (hw : t.rx.state.waiting = false)
    (hpend : t.rx.xactPend = true → t.tx.busy = true ∧ t.rx.state = .idle) (htimer : t.rx.timer = 0#16)
    (hlen : t.rx.len.toNat ≤ 260)
    (hexp : t.rx.expect = 0#9 ∨ (5 ≤ t.rx.expect.toNat ∧ t.rx.expect.toNat ≤ 257))
    (hfailed : t.rx.state = .timeout ∨ t.rx.state = .framingError → t.rx.crcCalc = 0#16 ∧ t.rx.crcRecv = 0#16)
    (hcomplete : t.rx.state = .complete → t.rx.len = t.rx.expect ∧ t.rx.crcCalc = t.rx.crcRecv)
    (hcrcError : t.rx.state = .crcError → t.rx.len = t.rx.expect ∧ t.rx.crcCalc ≠ t.rx.crcRecv) : ReceiverInv t where
  pending := hpend
  timerIdle _ := htimer
  lenRange := hlen
  expectRange := hexp
  crcCleared h := hfailed (h.resolve_left (by simp [hw]))
  address h := by rw [h] at hw; cases hw
  header h := by rw [h] at hw; cases hw
  body h := by rw [h] at hw; cases hw
  complete := hcomplete
  crcError := hcrcError

/-- An idle receiver, whatever its CRCs. -/
theorem ReceiverInv.of_idle {t : State} (hidle : t.rx.state = .idle) (hpend : t.rx.xactPend = true → t.tx.busy = true)
    (htimer : t.rx.timer = 0#16) (hlen : t.rx.len.toNat ≤ 260)
    (hexp : t.rx.expect = 0#9 ∨ (5 ≤ t.rx.expect.toNat ∧ t.rx.expect.toNat ≤ 257)) : ReceiverInv t :=
  .of_not_waiting (by rw [hidle]; rfl) (fun h => ⟨hpend h, hidle⟩) htimer hlen hexp (by simp [hidle]) (by simp [hidle])
    (by simp [hidle])

/-- A receive that ended with the verdict of a frame check over its `len` bytes (42_codec.md R210, R211, R214). -/
theorem ReceiverInv.of_frameCheck {s t : State} {sh : Shape} {len : Nat} (hlen : len ≤ 260)
    (hstate : t.rx.state = (s.frameCheck sh len).state) (hexp : t.rx.expect = (s.frameCheck sh len).expect)
    (hcalc : t.rx.crcCalc = (s.frameCheck sh len).crcCalc) (hrecv : t.rx.crcRecv = (s.frameCheck sh len).crcRecv)
    (hl : t.rx.len = BitVec.ofNat 9 len) (htimer : t.rx.timer = 0#16) (hpend : t.rx.xactPend = false) :
    ReceiverInv t := by
  have hl260 : t.rx.len.toNat ≤ 260 := by
    rw [hl, BitVec.toNat_ofNat, Nat.mod_eq_of_lt (by omega)]
    exact hlen
  have hrange := State.frameCheck_expect_range s sh len
  have hcases := State.frameCheck_cases s sh len
  rw [← hstate, ← hexp, ← hcalc, ← hrecv, ← hl] at hcases
  rw [← hexp] at hrange
  have hno : t.rx.xactPend = true → t.tx.busy = true ∧ t.rx.state = .idle := by simp [hpend]
  rcases hcases with ⟨hst, h0, h0'⟩ | ⟨hst, hel, heq⟩ | ⟨hst, hel, hne⟩
  · exact .of_not_waiting (by rw [hst]; rfl) hno htimer hl260 hrange (fun _ => ⟨h0, h0'⟩) (by simp [hst]) (by simp [hst])
  · exact .of_not_waiting (by rw [hst]; rfl) hno htimer hl260 hrange (by simp [hst]) (fun _ => ⟨hel.symm, heq⟩)
      (by simp [hst])
  · exact .of_not_waiting (by rw [hst]; rfl) hno htimer hl260 hrange (by simp [hst]) (by simp [hst])
      (fun _ => ⟨hel.symm, hne⟩)

/-- A waiting receiver: no XACT is pending, the CRCs are 0 and the state's own clause holds. -/
theorem ReceiverInv.of_waiting {t : State} (hw : t.rx.state.waiting = true) (hpend : t.rx.xactPend = false)
    (hcrc : t.rx.crcCalc = 0#16 ∧ t.rx.crcRecv = 0#16) (hlen : t.rx.len.toNat ≤ 260)
    (hexp : t.rx.expect = 0#9 ∨ (5 ≤ t.rx.expect.toNat ∧ t.rx.expect.toNat ≤ 257))
    (haddress : t.rx.state = .waitAddress → t.rx.len = 0#9 ∧ t.rx.expect = armExpect t.rx.shape)
    (hheader : t.rx.state = .waitHeader → t.rx.shape = .a ∧ (t.rx.len = 1#9 ∨ t.rx.len = 2#9) ∧ t.rx.expect = 0#9)
    (hbody : t.rx.state = .waitBody →
      t.rx.len.toNat < t.rx.expect.toNat ∧
      (t.rx.shape = .b → 1 ≤ t.rx.len.toNat ∧ t.rx.expect = 8#9) ∧
      (t.rx.shape = .a → 3 ≤ t.rx.len.toNat ∧ t.rx.expect.toNat = (t.rxByte 2).toNat + 5)) : ReceiverInv t where
  pending h := by simp [hpend] at h
  timerIdle h := by simp [hw] at h
  lenRange := hlen
  expectRange := hexp
  crcCleared _ := hcrc
  address := haddress
  header := hheader
  body := hbody
  complete h := by rw [h] at hw; cases hw
  crcError h := by rw [h] at hw; cases hw

/-- A receiver just armed (43_receive.md R230). -/
theorem ReceiverInv.of_armed {t : State} (hstate : t.rx.state = .waitAddress) (hpend : t.rx.xactPend = false)
    (hcrc : t.rx.crcCalc = 0#16 ∧ t.rx.crcRecv = 0#16) (hlen : t.rx.len = 0#9)
    (hexp : t.rx.expect = armExpect t.rx.shape) : ReceiverInv t := by
  have hrange : ∀ sh, armExpect sh = 0#9 ∨ (5 ≤ (armExpect sh).toNat ∧ (armExpect sh).toNat ≤ 257)
    | .a => .inl rfl
    | .b => .inr (by decide)
  exact .of_waiting (by rw [hstate]; rfl) hpend hcrc (by rw [hlen]; decide) (hexp ▸ hrange _) (fun _ => ⟨hlen, hexp⟩)
    (by simp [hstate]) (by simp [hstate])

/-- A receiver that waits for the function or the byte count of a shape A frame (43_receive.md R236, R237). -/
theorem ReceiverInv.of_waitHeader {t : State} (hstate : t.rx.state = .waitHeader) (hpend : t.rx.xactPend = false)
    (hcrc : t.rx.crcCalc = 0#16 ∧ t.rx.crcRecv = 0#16) (hshape : t.rx.shape = .a)
    (hlen : t.rx.len = 1#9 ∨ t.rx.len = 2#9) (hexp : t.rx.expect = 0#9) : ReceiverInv t := by
  have hlen260 : t.rx.len.toNat ≤ 260 := by rcases hlen with h | h <;> rw [h] <;> decide
  exact .of_waiting (by rw [hstate]; rfl) hpend hcrc hlen260 (.inl hexp) (by simp [hstate])
    (fun _ => ⟨hshape, hlen, hexp⟩) (by simp [hstate])

/-- A receiver that waits for the rest of a frame of known length (43_receive.md R236..R238). -/
theorem ReceiverInv.of_waitBody {t : State} (hstate : t.rx.state = .waitBody) (hpend : t.rx.xactPend = false)
    (hcrc : t.rx.crcCalc = 0#16 ∧ t.rx.crcRecv = 0#16)
    (hexp : 5 ≤ t.rx.expect.toNat ∧ t.rx.expect.toNat ≤ 257) (hlen : t.rx.len.toNat < t.rx.expect.toNat)
    (hb : t.rx.shape = .b → 1 ≤ t.rx.len.toNat ∧ t.rx.expect = 8#9)
    (ha : t.rx.shape = .a → 3 ≤ t.rx.len.toNat ∧ t.rx.expect.toNat = (t.rxByte 2).toNat + 5) : ReceiverInv t :=
  .of_waiting (by rw [hstate]; rfl) hpend hcrc (by omega) (.inr hexp) (by simp [hstate]) (by simp [hstate])
    fun _ => ⟨hlen, hb, ha⟩

/-- TIMER is free to run while the receiver waits (43_receive.md R241). -/
theorem ReceiverInv.set_timer {s : State} (hs : ReceiverInv s) (hw : s.rx.state.waiting = true) (n : Half) :
    ReceiverInv { s with rx := { s.rx with timer := n } } :=
  .of_waiting hw (hs.not_pending_of_waiting hw) (hs.crcCleared (.inl hw)) hs.lenRange hs.expectRange hs.address hs.header
    hs.body

/-- A waiting receive that stops or fails: TIMER is 0 and RX_CRC stays 0 (43_receive.md R233, R237, R242). -/
theorem ReceiverInv.stop {s t : State} (hs : ReceiverInv s) (hw : s.rx.state.waiting = true)
    (hstate : t.rx.state = .idle ∨ t.rx.state = .timeout ∨ t.rx.state = .framingError)
    (hpend : t.rx.xactPend = false) (htimer : t.rx.timer = 0#16) (hcalc : t.rx.crcCalc = s.rx.crcCalc)
    (hrecv : t.rx.crcRecv = s.rx.crcRecv) (hlen : t.rx.len.toNat ≤ 260)
    (hexp : t.rx.expect = 0#9 ∨ t.rx.expect = s.rx.expect) : ReceiverInv t := by
  have hcrc := hs.crcCleared (.inl hw)
  rw [← hcalc, ← hrecv] at hcrc
  have hrange : t.rx.expect = 0#9 ∨ (5 ≤ t.rx.expect.toNat ∧ t.rx.expect.toNat ≤ 257) := by
    rcases hexp with h | h
    · exact .inl h
    · exact h ▸ hs.expectRange
  refine .of_not_waiting ?_ (by simp [hpend]) htimer hlen hrange (fun _ => hcrc) ?_ ?_ <;>
    rcases hstate with h | h | h <;> simp [h]

/-! ### Every step keeps the receive unit's invariant -/

/-- A rejection touches nothing of the receiver. -/
theorem ReceiverInv.reject {s : State} (hs : ReceiverInv s) (op : Byte) (e : ErrCode) :
    ReceiverInv (s.rejectCommand op e) := hs.of_frame rfl (fun _ => id) fun _ => rfl

/-- Every command keeps the receive unit's invariant. -/
theorem ReceiverInv.exec {i : Instr} {s t : State} (hs : ReceiverInv s) (h : exec i s = .next t) : ReceiverInv t := by
  cases i with
  | nop | crcInit | crcByte | medInit | medPush =>
    cases h
    exact hs.of_frame rfl (fun _ => id) fun _ => rfl
  | crcTxbuf =>
    rcases execCrcTxbuf_cases h with ⟨-, rfl⟩ | ⟨-, rfl⟩
    · exact hs.reject _ _
    · exact hs.of_frame rfl (fun _ => id) fun _ => rfl
  | encode =>
    rcases execEncode_cases h with ⟨-, rfl⟩ | ⟨-, -, rfl⟩ | ⟨-, hlen, rfl⟩
    · exact hs.reject _ _
    · exact hs.reject _ _
    · exact hs.of_frame rfl (fun _ => id) fun _ => State.rxByte_appendCrc hlen 2
  | txSend =>
    rcases execTxSend_cases h with ⟨-, rfl⟩ | ⟨-, -, rfl⟩ | ⟨-, -, rfl⟩
    · exact hs.reject _ _
    · exact hs.reject _ _
    · exact hs.of_frame rfl (fun _ _ => rfl) fun _ => rfl
  | xact =>
    rcases execXact_cases h with ⟨-, rfl⟩ | ⟨-, -, rfl⟩ | ⟨-, -, -, rfl⟩ | ⟨-, hfree, -, rfl⟩
    · exact hs.reject _ _
    · exact hs.reject _ _
    · exact hs.reject _ _
    · obtain ⟨hw, -⟩ := State.rxBusy_eq_false.mp hfree
      exact .of_idle rfl (fun _ => rfl) (hs.timerIdle hw) hs.lenRange hs.expectRange
  | rxStart =>
    rcases execRxStart_cases h with ⟨-, rfl⟩ | ⟨hfree, rfl⟩
    · exact hs.reject _ _
    · obtain ⟨-, hpend⟩ := State.rxBusy_eq_false.mp hfree
      exact .of_armed rfl hpend ⟨rfl, rfl⟩ rfl rfl
  | rxAbort =>
    rcases execRxAbort_cases h with ⟨hw, rfl⟩ | ⟨hw, rfl⟩
    · exact hs.stop hw (.inl rfl) rfl rfl rfl rfl hs.lenRange (.inr rfl)
    · exact .of_not_waiting hw Bool.noConfusion (hs.timerIdle hw) hs.lenRange hs.expectRange
        (fun h => hs.crcCleared (.inr h)) hs.complete hs.crcError
  | decode =>
    rcases execDecode_cases h with ⟨-, rfl⟩ | ⟨-, -, rfl⟩ | ⟨hfree, hlen, rfl⟩
    · exact hs.reject _ _
    · exact hs.reject _ _
    · obtain ⟨hw, hpend⟩ := State.rxBusy_eq_false.mp hfree
      exact .of_frameCheck hlen rfl rfl rfl rfl rfl (hs.timerIdle hw) hpend
  | maInit =>
    rcases execMaInit_cases h with ⟨-, rfl⟩ | ⟨-, rfl⟩
    · exact hs.reject _ _
    · exact hs.of_frame rfl (fun _ => id) fun _ => rfl
  | maPush =>
    rcases execMaPush_cases h with ⟨-, rfl⟩ | ⟨-, rfl⟩
    · exact hs.reject _ _
    · exact hs.of_frame rfl (fun _ => id) fun _ => rfl
  | softReset =>
    cases h
    exact .of_idle rfl Bool.noConfusion rfl (Nat.zero_le _) (.inl rfl)

/-- A byte stored in a waiting state, and the rule of that state (43_receive.md R235..R239). -/
theorem ReceiverInv.afterStored {s : State} (hs : ReceiverInv s) (b : Byte) (hw : s.rx.state.waiting = true)
    (hlt : s.rx.len.toNat < 260) : ReceiverInv (s.storeReceived b).afterStored := by
  have hpend := hs.not_pending_of_waiting hw
  have hcrc := hs.crcCleared (.inl hw)
  have hlen : (s.rx.len + 1#9).toNat = s.rx.len.toNat + 1 := toNat_len_succ (by omega)
  have hlen260 : (s.rx.len + 1#9).toNat ≤ 260 := by omega
  rcases State.afterStored_cases (s.storeReceived b) hw with
    ⟨hst, h⟩ | ⟨hst, hl, h⟩ | ⟨hst, hl, hbc, h⟩ | ⟨hst, hl, hbc, h⟩ | ⟨hst, hl, h⟩ | ⟨hst, hl, h⟩ <;> rw [h]
  · -- the address: the header comes next for shape A, the body for shape B
    obtain ⟨hl0, hexp⟩ := hs.address hst
    have hl1 : s.rx.len + 1#9 = 1#9 := by rw [hl0]; rfl
    cases hsh : s.rx.shape with
    | a =>
      rw [hsh] at hexp
      exact .of_waitHeader (if_pos hsh) hpend hcrc hsh (.inl hl1) hexp
    | b =>
      have hexp8 : s.rx.expect = 8#9 := by rw [hexp, hsh]; rfl
      have hexpNat : s.rx.expect.toNat = 8 := by rw [hexp8]; rfl
      have hlenNat : (s.rx.len + 1#9).toNat = 1 := by rw [hl1]; rfl
      refine .of_waitBody (if_neg (by simp [hsh])) hpend hcrc ?_ ?_ (fun _ => ⟨hlenNat.ge, hexp8⟩) (fun ha => ?_)
      · show 5 ≤ s.rx.expect.toNat ∧ s.rx.expect.toNat ≤ 257
        omega
      · show (s.rx.len + 1#9).toNat < s.rx.expect.toNat
        omega
      · exact nomatch hsh.symm.trans ha
  · -- the function of a shape A frame: the byte count comes next
    obtain ⟨hsh, hl12, hexp⟩ := hs.header hst
    have hl2 : s.rx.len + 1#9 = 2#9 := by
      rcases hl12 with h1 | h2
      · rw [h1]; rfl
      · exact absurd (by rw [State.storeReceived_rx, h2]; rfl) hl
    exact .of_waitHeader hst hpend hcrc hsh (.inr hl2) hexp
  · -- a byte count above the limit
    exact hs.stop hw (.inr (.inr rfl)) hpend rfl hcrc.1.symm hcrc.2.symm hlen260 (.inl rfl)
  · -- a byte count: it gives the frame's length
    obtain ⟨hsh, -, -⟩ := hs.header hst
    have hl3 : (s.rx.len + 1#9).toNat = 3 := congrArg BitVec.toNat hl
    have hexp : (BitVec.ofNat 9 (((s.storeReceived b).rxByte 2).toNat + 5)).toNat =
        ((s.storeReceived b).rxByte 2).toNat + 5 := by
      rw [BitVec.toNat_ofNat]
      exact Nat.mod_eq_of_lt (by omega)
    refine .of_waitBody rfl hpend hcrc ?_ ?_ (fun hb => nomatch hsh.symm.trans hb) (fun _ => ⟨hl3.ge, hexp⟩)
    · show 5 ≤ (BitVec.ofNat 9 _).toNat ∧ (BitVec.ofNat 9 _).toNat ≤ 257
      omega
    · show (s.rx.len + 1#9).toNat < (BitVec.ofNat 9 _).toNat
      omega
  · -- a byte of the body, not the last
    obtain ⟨hlt', hb, ha⟩ := hs.body hst
    have hne : (s.rx.len + 1#9).toNat ≠ s.rx.expect.toNat := fun e => hl (BitVec.eq_of_toNat_eq e)
    have hexp : 5 ≤ s.rx.expect.toNat ∧ s.rx.expect.toNat ≤ 257 :=
      hs.expectRange.resolve_left fun h0 => by simp [h0] at hlt'
    refine .of_waitBody hst hpend hcrc hexp ?_ (fun hsh => ?_) (fun hsh => ?_)
    · show (s.rx.len + 1#9).toNat < s.rx.expect.toNat
      omega
    · obtain ⟨-, h8⟩ := hb hsh
      exact ⟨by show 1 ≤ (s.rx.len + 1#9).toNat; omega, h8⟩
    · obtain ⟨h3, hcount⟩ := ha hsh
      refine ⟨by show 3 ≤ (s.rx.len + 1#9).toNat; omega, ?_⟩
      rw [State.rxByte_storeReceived, if_neg (by omega)]
      exact hcount
  · -- the last byte: the frame check decides
    have hself : s.rx.len + 1#9 = BitVec.ofNat 9 (s.rx.len + 1#9).toNat := by
      rw [BitVec.ofNat_toNat, BitVec.setWidth_eq]
    exact .of_frameCheck hlen260 rfl rfl rfl rfl hself rfl hpend

/-- A received byte is dropped or taken by the waiting receiver (43_receive.md R234, R235). -/
theorem ReceiverInv.rxByte {b : Byte} {s t : State} (hs : ReceiverInv s) (h : rxByteEvent b s = .next t) :
    ReceiverInv t := by
  rcases rxByteEvent_cases h with ⟨-, rfl⟩ | ⟨hw, hlt, rfl⟩
  · exact hs.of_frame rfl (fun _ => id) fun _ => rfl
  · exact hs.afterStored b hw hlt

/-- A take leaves the receiver alone but for the last one of an XACT, which arms it (42_codec.md R204). -/
theorem ReceiverInv.txAccept {s t : State} (hs : ReceiverInv s) (h : txAcceptEvent s = .next t) : ReceiverInv t := by
  obtain ⟨-, ⟨-, rfl⟩ | ⟨-, rfl⟩⟩ := txAcceptEvent_cases h
  · rcases State.endTransmission_cases
      { s with tx := { s.tx with pos := s.tx.pos + 1#9 }, txLine := s.txLine ++ [s.txByte s.tx.pos.toNat] } with
      ⟨hpend, ht⟩ | ⟨-, ht⟩ <;> rw [ht]
    · exact hs.of_frame rfl (fun h => nomatch hpend.symm.trans h) fun _ => rfl
    · exact .of_armed rfl rfl ⟨rfl, rfl⟩ rfl rfl
  · exact hs.of_frame rfl (fun _ => id) fun _ => rfl

/-- A tick runs TIMER down or ends the receive in TIMEOUT (43_receive.md R241, R242). -/
theorem ReceiverInv.tickTimer {s : State} (hs : ReceiverInv s) : ReceiverInv s.tickTimer := by
  rcases State.tickTimer_cases s with ⟨-, h⟩ | ⟨hw, -, h⟩ | ⟨hw, -, h⟩ <;> rw [h]
  · exact hs
  · exact hs.stop hw (.inr (.inl rfl)) (hs.not_pending_of_waiting hw) rfl rfl rfl hs.lenRange (.inr rfl)
  · exact hs.set_timer hw _

/-- A register write changes nothing the invariant speaks of: RXBUF is gated while the receiver waits (20_memory.md
R98). -/
theorem ReceiverInv.writeReg {s : State} {r : Reg} (hs : ReceiverInv s) (d : Word) (hg : s.writeGated r = false) :
    ReceiverInv (s.writeReg r d) := by
  refine hs.of_frame (State.writeReg_rx s r d) (fun _ hb => by simpa using hb) fun hbody => ?_
  refine State.rxByte_writeReg d (fun k hr => ?_) 2
  subst hr
  obtain ⟨hw, -⟩ := State.rxBusy_eq_false.mp hg
  rw [hbody] at hw
  cases hw

/-- Settles O58: each event keeps the clause of the receive state it finds and meets that of the state it leaves. -/
theorem stepKeepsTheReceiverInvariant : Obligations.StepKeepsTheReceiverInvariant := by
  intro s t hs h
  refine step_keeps (P := ReceiverInv) (fun s r p hs => hs.of_frame rfl (fun _ => id) fun _ => rfl)
    (fun s op c hs => hs.reject op c) (fun i s t hs => hs.exec) (fun s r d _ hg hs => hs.writeReg d hg)
    (fun b s t hs => hs.rxByte) (fun s t hs => hs.txAccept) (fun s hs => hs.tickTimer) ?_ ?_ hs h
  · intro s hs
    rw [State.tickGuard_eq]
    exact hs.of_frame rfl (fun _ => id) fun _ => rfl
  · intro s hs
    exact .of_idle rfl Bool.noConfusion rfl (Nat.zero_le _) (.inl rfl)

end Sys2Proof

namespace Sys2Proof

namespace Machine

/-- A window is 3 to 15 slots (45_moving_average.md R311). -/
theorem validWindow_range {n : Nat} (h : validWindow n = true) : 3 ≤ n ∧ n ≤ 15 := by
  have hn := (validWindow_iff n).mp h
  simp only [List.mem_cons, List.not_mem_nil, or_false] at hn
  omega

/-! ### The weighted sums of a window -/

/-- What a slot adds to the numerator is within 32767 times what it adds to the denominator, a reading being within
±32767 (00_scope.md R12); so it is for the sums. -/
theorem natAbs_maNumerator_le (n seen : Nat) (x : Nat → Half) :
    (maNumerator n seen x).natAbs ≤ 32767 * maDenominator n seen x := by
  unfold maNumerator maDenominator
  induction List.range (maAges n seen) with
  | nil => exact Nat.le_refl 0
  | cons k ks ih =>
    have hslot : (if x k = Config.sentinel then 0 else (maWeight n seen k : Int) * (x k).toInt).natAbs ≤
        32767 * (if x k = Config.sentinel then 0 else maWeight n seen k) := by
      split
      · exact Nat.le_refl 0
      · have hx : (x k).toInt.natAbs ≤ 32767 := by
          have hne : (x k).toInt ≠ Config.sentinel.toInt := fun e => ‹¬x k = _› (BitVec.eq_of_toInt_eq e)
          have hmin : Config.sentinel.toInt = -32768 := rfl
          have hlo := BitVec.le_toInt (x k)
          have hhi := BitVec.toInt_lt (x := x k)
          omega
        rw [Int.natAbs_mul, Int.natAbs_natCast, Nat.mul_comm]
        exact Nat.mul_le_mul_right _ hx
    simp only [List.map_cons, List.sum_cons, Nat.mul_add]
    exact (Int.natAbs_add_le _ _).trans (Nat.add_le_add hslot ih)

/-- The weights of a full window from age 0 up to an inner age: the newest counts 1, each other one 2
(45_moving_average.md R318). -/
theorem sum_maWeight_steady {n m : Nat} (hm : m + 1 < n) :
    ((List.range (m + 1)).map (maWeight n n)).sum = 2 * m + 1 := by
  induction m with
  | zero => simp [maWeight]
  | succ m ih =>
    have hw : maWeight n n (m + 1) = 2 := by
      unfold maWeight
      rw [if_neg (Nat.lt_irrefl n), if_neg (by omega)]
    rw [List.range_succ, List.map_append, List.sum_append, ih (by omega)]
    simp only [List.map_cons, List.map_nil, List.sum_cons, List.sum_nil, hw]
    omega

/-- The denominator of a window of at most 15 slots is at most 28 (10_state.md R58, 45_moving_average.md R322). -/
theorem maDenominator_le {n seen : Nat} (h3 : 3 ≤ n) (h15 : n ≤ 15) (hseen : seen ≤ n) (x : Nat → Half) :
    maDenominator n seen x ≤ 28 := by
  have hweights : maDenominator n seen x ≤ ((List.range (maAges n seen)).map (maWeight n seen)).sum := by
    refine List.sum_le_sum fun k _ => ?_
    split
    · exact Nat.zero_le _
    · exact Nat.le_refl _
  refine hweights.trans ?_
  rcases Nat.lt_or_ge seen n with hlt | hge
  · have hw : maWeight n seen = fun _ => 2 := funext fun _ => if_pos hlt
    have ha : maAges n seen = seen := if_pos hlt
    rw [hw, ha, List.map_const', List.sum_replicate, List.length_range, smul_eq_mul]
    omega
  · obtain rfl : seen = n := Nat.le_antisymm hseen hge
    obtain ⟨m, rfl⟩ : ∃ m, seen = m + 2 := ⟨seen - 2, by omega⟩
    have ha : maAges (m + 2) (m + 2) = m + 1 + 1 := if_neg (Nat.lt_irrefl _)
    have hlast : maWeight (m + 2) (m + 2) (m + 1) = 1 := by
      unfold maWeight
      rw [if_neg (Nat.lt_irrefl _), if_pos (.inr rfl)]
    rw [ha, List.range_succ, List.map_append, List.sum_append, sum_maWeight_steady (by omega)]
    simp only [List.map_cons, List.map_nil, List.sum_cons, List.sum_nil, hlast]
    omega

/-- The size of the rounded quotient, whatever its sign (45_moving_average.md R320). -/
theorem natAbs_roundHalfAway (num : Int) (den : Nat) :
    (roundHalfAway num den).natAbs = (2 * num.natAbs + den) / (2 * den) := by
  simp only [roundHalfAway]
  split
  · exact Int.natAbs_natCast _
  · rw [Int.natAbs_neg, Int.natAbs_natCast]

/-- The rounded quotient stays within the bound of the readings (45_moving_average.md R320, R321). -/
theorem natAbs_roundHalfAway_le {num : Int} {den : Nat} (hden : 0 < den) (hnum : num.natAbs ≤ 32767 * den) :
    (roundHalfAway num den).natAbs ≤ 32767 := by
  rw [natAbs_roundHalfAway]
  exact Nat.le_of_lt_succ (Nat.div_lt_of_lt_mul (by omega))

/-- A lane's output is the sentinel exactly when no reading was there (45_moving_average.md R318, R321). -/
theorem maRounded_eq_sentinel_iff {num : Int} {den : Nat} (hnum : num.natAbs ≤ 32767 * den) :
    maRounded num den = Config.sentinel ↔ den = 0 := by
  unfold maRounded
  by_cases hden : den = 0
  · simp [hden]
  · rw [if_neg hden]
    refine ⟨fun h => absurd (congrArg BitVec.toInt h) ?_, fun h => absurd h hden⟩
    have hr := natAbs_roundHalfAway_le (Nat.pos_of_ne_zero hden) hnum
    have hmin : Config.sentinel.toInt = -32768 := rfl
    rw [BitVec.toInt_ofInt, hmin, Int.bmod_eq_of_le (by omega) (by omega)]
    omega

/-! ### What a push shows -/

/-- The numerator of lane `c` over the window whose newest sample is at `w`, before it is narrowed. -/
def MaUnit.laneNum (u : MaUnit) (w : Fin 15) (c : Fin 8) : Int :=
  maNumerator u.n.toNat u.seen.toNat fun k => u.ring[maSlotIndex u.n.toNat w.val k].v.get c

/-- The denominator of lane `c` over the window whose newest sample is at `w`, before it is narrowed. -/
def MaUnit.laneDen (u : MaUnit) (w : Fin 15) (c : Fin 8) : Nat :=
  maDenominator u.n.toNat u.seen.toNat fun k => u.ring[maSlotIndex u.n.toNat w.val k].v.get c

theorem MaUnit.emit_num_get (u : MaUnit) (w : Fin 15) (c : Fin 8) :
    (u.emit w).num.get c = BitVec.ofInt 32 (u.laneNum w c) := Lanes.get_ofFn _ c

theorem MaUnit.emit_den_get (u : MaUnit) (w : Fin 15) (c : Fin 8) :
    (u.emit w).den.get c = BitVec.ofNat 5 (u.laneDen w c) := Lanes.get_ofFn _ c

theorem MaUnit.emit_out_get (u : MaUnit) (w : Fin 15) (c : Fin 8) :
    (u.emit w).out.get c = maRounded (u.laneNum w c) (u.laneDen w c) := Lanes.get_ofFn _ c

theorem MaUnit.emit_tsOut (u : MaUnit) (w : Fin 15) :
    (u.emit w).tsOut = u.ring[maSlotIndex u.n.toNat w.val ((u.n.toNat - 1) / 2)].ts := rfl

theorem MaUnit.emit_tsv (u : MaUnit) (w : Fin 15) :
    (u.emit w).tsv = decide ((u.n.toNat - 1) / 2 < u.seen.toNat) := rfl

/-- Numerator and denominator fit their registers, and the output is the sentinel exactly when the denominator is 0
(10_state.md R58, 45_moving_average.md R321, R322). -/
theorem MaUnit.emit_outputs {u : MaUnit} (w : Fin 15) (hn : validWindow u.n.toNat = true)
    (hseen : u.seen.toNat ≤ u.n.toNat) (c : Fin 8) :
    ((u.emit w).den.get c).toNat ≤ 28 ∧
    ((u.emit w).num.get c).toInt.natAbs ≤ 32767 * ((u.emit w).den.get c).toNat ∧
    ((u.emit w).den.get c = 0#5 ↔ (u.emit w).out.get c = Config.sentinel) := by
  obtain ⟨h3, h15⟩ := validWindow_range hn
  have hden : u.laneDen w c ≤ 28 := maDenominator_le h3 h15 hseen _
  have hnum : (u.laneNum w c).natAbs ≤ 32767 * u.laneDen w c := natAbs_maNumerator_le _ _ _
  have hden5 : (BitVec.ofNat 5 (u.laneDen w c)).toNat = u.laneDen w c := by
    rw [BitVec.toNat_ofNat]
    exact Nat.mod_eq_of_lt (by omega)
  have hnum32 : (BitVec.ofInt 32 (u.laneNum w c)).toInt = u.laneNum w c := by
    rw [BitVec.toInt_ofInt]
    exact Int.bmod_eq_of_le (by omega) (by omega)
  rw [MaUnit.emit_den_get, MaUnit.emit_num_get, MaUnit.emit_out_get, hden5, hnum32, maRounded_eq_sentinel_iff hnum]
  refine ⟨hden, hnum, ?_⟩
  rw [← BitVec.toNat_inj, hden5]
  rfl

end Machine

open Machine

/-! ### The moving-average unit's invariant -/

/-- The invariant speaks of the unit alone, and not of its inputs. -/
theorem MovingAverageInv.of_frame {s t : State} (hs : MovingAverageInv s)
    (h : t.ma = { s.ma with tsIn := t.ma.tsIn, inp := t.ma.inp }) : MovingAverageInv t := by
  constructor <;> rewrite [h]
  · exact hs.window
  · exact hs.seenLe
  · exact hs.indexRange
  · exact hs.warmIndex
  · exact hs.unseen
  · exact hs.tsValid
  · exact hs.tsBefore
  · exact hs.outputs

/-- A unit that has seen nothing: not configured, or just initialised (45_moving_average.md R310; 10_state.md R64). -/
theorem MovingAverageInv.of_start {t : State} (hwindow : t.ma.n = 0#4 ∨ validWindow t.ma.n.toNat = true)
    (hwidx : t.ma.widx = 0) (hseen : t.ma.seen = 0#4) (htsv : t.ma.tsv = false) (htsOut : t.ma.tsOut = 0#32)
    (hout : t.ma.out = Lanes.fill Config.sentinel) (hnum : t.ma.num = Lanes.fill 0#32) (hden : t.ma.den = Lanes.fill 0#5)
    (hring : t.ma.n ≠ 0#4 → t.ma.ring = Vector.replicate 15 Sample.cleared) : MovingAverageInv t where
  window := hwindow
  seenLe := by rw [hseen]; exact Nat.zero_le _
  indexRange := by
    rcases eq_or_ne t.ma.n 0#4 with h | h
    · exact .inr ⟨h, hwidx⟩
    · rw [hwidx]
      exact .inl (Nat.pos_of_ne_zero fun e => h (BitVec.eq_of_toNat_eq e))
  warmIndex _ := by rw [hwidx, hseen]; rfl
  unseen h j _ := by rw [hring h]; exact Vector.getElem_replicate _
  tsValid := by simp [htsv, hseen]
  tsBefore _ := htsOut
  outputs c := by simp [hout, hnum, hden]

/-- A push on a configured unit (45_moving_average.md R315..R317). -/
theorem MovingAverageInv.push {s t : State} (hs : MovingAverageInv s) (hn : s.ma.n ≠ 0#4) (x : Sample)
    (ht : t.ma = (s.ma.store x).emit s.ma.widx) : MovingAverageInv t := by
  have hvalid := hs.window.resolve_left hn
  obtain ⟨h3, h15⟩ := validWindow_range hvalid
  have hseenLe := hs.seenLe
  have hwarm := hs.warmIndex
  have hwidx : s.ma.widx.val < s.ma.n.toNat := hs.indexRange.resolve_right fun h => hn h.1
  have hwidx' := MaUnit.store_widx_val s.ma x hn
  have hseen' := MaUnit.store_seen_toNat s.ma x
  have hunseen : ∀ j : Fin 15, (s.ma.store x).seen.toNat ≤ j.val → (s.ma.store x).ring[j] = Sample.cleared := by
    intro j hj
    have hne : j ≠ s.ma.widx := fun e => by
      rw [e] at hj
      omega
    rw [MaUnit.store_ring, if_neg hne]
    exact hs.unseen hn j (by omega)
  constructor <;> rewrite [ht]
  case window => exact .inr hvalid
  case seenLe =>
    simp only [MaUnit.emit_seen, MaUnit.emit_n, MaUnit.store_n]
    omega
  case indexRange =>
    refine .inl ?_
    simp only [MaUnit.emit_widx, MaUnit.emit_n, MaUnit.store_n, hwidx']
    exact Nat.mod_lt _ (by omega)
  case warmIndex =>
    simp only [MaUnit.emit_widx, MaUnit.emit_seen, MaUnit.emit_n, MaUnit.store_n, hwidx', hseen']
    intro hlt
    rw [Nat.mod_eq_of_lt (by omega)]
    omega
  case unseen => exact fun _ => hunseen
  case tsValid => simp only [MaUnit.emit_tsv, MaUnit.emit_n, MaUnit.emit_seen, decide_eq_true_eq]
  case tsBefore =>
    -- the middle slot lies `(N-1)/2` behind the newest: not seen yet, so it is cleared
    rw [MaUnit.emit_tsv, MaUnit.emit_tsOut, decide_eq_false_iff_not]
    intro hlt
    rw [MaUnit.store_n] at hlt
    have hslot : (maSlotIndex (s.ma.store x).n.toNat s.ma.widx.val (((s.ma.store x).n.toNat - 1) / 2)).val =
        s.ma.widx.val + s.ma.n.toNat - (s.ma.n.toNat - 1) / 2 := by
      rw [MaUnit.store_n, maSlotIndex_val (by omega) (by omega)]
      exact Nat.mod_eq_of_lt (by omega)
    rw [hunseen _ (by omega)]
    rfl
  case outputs => exact MaUnit.emit_outputs s.ma.widx hvalid (by rw [MaUnit.store_n]; omega)

/-- Every command keeps the moving-average unit's invariant. -/
theorem MovingAverageInv.exec {i : Instr} {s t : State} (hs : MovingAverageInv s) (h : exec i s = .next t) :
    MovingAverageInv t := by
  cases i with
  | nop | crcInit | crcByte | medInit | medPush =>
    cases h
    exact hs.of_frame rfl
  | crcTxbuf => rcases execCrcTxbuf_cases h with ⟨-, rfl⟩ | ⟨-, rfl⟩ <;> exact hs.of_frame rfl
  | encode => rcases execEncode_cases h with ⟨-, rfl⟩ | ⟨-, -, rfl⟩ | ⟨-, -, rfl⟩ <;> exact hs.of_frame rfl
  | txSend => rcases execTxSend_cases h with ⟨-, rfl⟩ | ⟨-, -, rfl⟩ | ⟨-, -, rfl⟩ <;> exact hs.of_frame rfl
  | xact =>
    rcases execXact_cases h with ⟨-, rfl⟩ | ⟨-, -, rfl⟩ | ⟨-, -, -, rfl⟩ | ⟨-, -, -, rfl⟩ <;> exact hs.of_frame rfl
  | rxStart => rcases execRxStart_cases h with ⟨-, rfl⟩ | ⟨-, rfl⟩ <;> exact hs.of_frame rfl
  | rxAbort => rcases execRxAbort_cases h with ⟨-, rfl⟩ | ⟨-, rfl⟩ <;> exact hs.of_frame rfl
  | decode => rcases execDecode_cases h with ⟨-, rfl⟩ | ⟨-, -, rfl⟩ | ⟨-, -, rfl⟩ <;> exact hs.of_frame rfl
  | maInit n =>
    rcases execMaInit_cases h with ⟨-, rfl⟩ | ⟨hvalid, rfl⟩
    · exact hs.of_frame rfl
    · obtain ⟨-, h15⟩ := validWindow_range hvalid
      have hn : (BitVec.ofNat 4 n).toNat = n := by
        rw [BitVec.toNat_ofNat]
        exact Nat.mod_eq_of_lt (by omega)
      exact .of_start (.inr (hn.symm ▸ hvalid)) rfl rfl rfl rfl rfl rfl rfl fun _ => rfl
  | maPush =>
    rcases execMaPush_cases h with ⟨-, rfl⟩ | ⟨hn, rfl⟩
    · exact hs.of_frame rfl
    · exact hs.push hn _ rfl
  | softReset =>
    cases h
    exact .of_start (.inl rfl) rfl rfl rfl rfl rfl rfl rfl fun h => absurd rfl h

/-- Settles O59: MA_INIT and the resets start the unit afresh, a push keeps the clauses together, and every other event
leaves the unit alone but for its inputs. -/
theorem stepKeepsTheMovingAverageInvariant : Obligations.StepKeepsTheMovingAverageInvariant := by
  intro s t hs h
  refine step_keeps (P := MovingAverageInv) (fun s r p hs => hs.of_frame rfl) (fun s op c hs => hs.of_frame rfl)
    (fun i s t hs => hs.exec) (fun s r d _ _ hs => hs.of_frame (State.writeReg_ma s r d)) ?_ ?_ ?_ ?_ ?_ hs h
  · intro b s t hs h
    rcases rxByteEvent_cases h with ⟨-, rfl⟩ | ⟨-, -, rfl⟩
    · exact hs.of_frame rfl
    · obtain ⟨_, _, _, ht⟩ := State.afterStored_frame (s.storeReceived b)
      rw [ht]
      exact hs.of_frame rfl
  · intro s t hs h
    obtain ⟨-, ⟨-, rfl⟩ | ⟨-, rfl⟩⟩ := txAcceptEvent_cases h
    · obtain ⟨_, _, ht⟩ := State.endTransmission_frame
        { s with tx := { s.tx with pos := s.tx.pos + 1#9 }, txLine := s.txLine ++ [s.txByte s.tx.pos.toNat] }
      rw [ht]
      exact hs.of_frame rfl
    · exact hs.of_frame rfl
  · intro s hs
    obtain ⟨_, _, _, ht⟩ := State.tickTimer_frame s
    rw [ht]
    exact hs.of_frame rfl
  · intro s hs
    rw [State.tickGuard_eq]
    exact hs.of_frame rfl
  · intro s hs
    exact .of_start (.inl rfl) rfl rfl rfl rfl rfl rfl rfl fun h => absurd rfl h

end Sys2Proof

namespace Sys2Proof

namespace Machine

/-! ### The register map -/

/-- The map finds every register and buffer word at its address (20_memory.md R91, R93). -/
theorem regAtAligned_address (r : Reg) : regAtAligned r.address = some r := by
  cases r with
  | medIn c | medOut c | maIn c | maOut c | maNum c | maDen c => revert c; decide
  | txBuf k | rxBuf k => revert k; decide
  | _ => rfl

/-- No two registers or buffer words have one address (20_memory.md R91). -/
theorem Reg.address_injective {r q : Reg} (h : r.address = q.address) : r = q :=
  Option.some.inj ((regAtAligned_address r).symm.trans (h ▸ regAtAligned_address q))

/-- One row of the map's list of addresses, the rows after it being `e`. -/
theorem address_of_row {p : Prop} [Decidable p] {x e : Option Reg} {r : Reg} {n : Nat}
    (hrow : p → x = some r → r.address = n) (hrest : ¬ p → e = some r → r.address = n) :
    (if p then x else e) = some r → r.address = n := by
  split
  · exact hrow ‹_›
  · exact hrest ‹_›

/-- A row of the map for a single register. -/
theorem address_of_register {q r : Reg} {e : Option Reg} {m n : Nat} (hq : q.address = m)
    (hrest : e = some r → r.address = n) : (if n = m then some q else e) = some r → r.address = n :=
  address_of_row (fun h hx => Option.some.inj hx ▸ hq.trans h.symm) fun _ => hrest

/-- The lane of an address lies at that address (20_memory.md R91). -/
theorem laneOf_address {base n : Nat} (h4 : (n - base) % 4 = 0) (hlo : base ≤ n) (hhi : n < base + 32) :
    base + 4 * (laneOf base n).val = n := by
  have hval : (laneOf base n).val = (n - base) / 4 % 8 := rfl
  omega

/-- The buffer word of an address lies at that address (20_memory.md R93). -/
theorem bufWordOf_address {base n : Nat} (h4 : (n - base) % 4 = 0) (hlo : base ≤ n) (hhi : n < base + 260) :
    base + 4 * (bufWordOf base n).val = n := by
  have hval : (bufWordOf base n).val = (n - base) / 4 % 65 := rfl
  omega

/-- What the map finds has the address looked up: row by row, the single registers first, then the lanes and the buffer
words of each range, with the gaps between them. -/
theorem address_of_regAtAligned {n : Nat} {r : Reg} (h4 : n % 4 = 0) : regAtAligned n = some r → r.address = n := by
  have gap : ∀ {m : Nat}, n < m → (none : Option Reg) = some r → r.address = n := fun _ h => nomatch h
  have lane : ∀ {base : Nat} {f : Fin 8 → Reg}, (∀ c, (f c).address = base + 4 * c.val) → base % 4 = 0 →
      ¬ n < base → n < base + 32 → some (f (laneOf base n)) = some r → r.address = n := by
    intro base f hf hbase hlo hhi h
    rw [← Option.some.inj h, hf]
    exact laneOf_address (by omega) (by omega) hhi
  have word : ∀ {base : Nat} {f : Fin 65 → Reg}, (∀ k, (f k).address = base + 4 * k.val) → base % 4 = 0 →
      ¬ n < base → n < base + 260 → some (f (bufWordOf base n)) = some r → r.address = n := by
    intro base f hf hbase hlo hhi h
    rw [← Option.some.inj h, hf]
    exact bufWordOf_address (by omega) (by omega) hhi
  unfold regAtAligned
  iterate 18 refine address_of_register rfl ?_
  refine address_of_row gap fun h50 => ?_
  refine address_of_row (lane (fun _ => rfl) rfl h50) fun h70 => ?_
  refine address_of_row (lane (fun _ => rfl) rfl h70) fun _ => ?_
  iterate 3 refine address_of_register rfl ?_
  refine address_of_row gap fun hA0 => ?_
  refine address_of_row (lane (fun _ => rfl) rfl hA0) fun hC0 => ?_
  refine address_of_row (lane (fun _ => rfl) rfl hC0) fun hE0 => ?_
  refine address_of_row (lane (fun _ => rfl) rfl hE0) fun h100 => ?_
  refine address_of_row (lane (fun _ => rfl) rfl h100) fun _ => ?_
  refine address_of_row gap fun htx => ?_
  refine address_of_row (word (fun _ => rfl) rfl htx) fun _ => ?_
  refine address_of_row gap fun hrx => ?_
  exact address_of_row (word (fun _ => rfl) rfl hrx) fun _ h => nomatch h

/-- Registers and buffer words lie at word addresses (20_memory.md R91, R95). -/
theorem Reg.address_aligned (r : Reg) : r.address % 4 = 0 := by
  cases r <;> simp only [Reg.address, Config.txBase, Config.rxBase] <;> omega

/-- The map and the table of addresses say the same (20_memory.md R91, R95). -/
theorem regAt_eq_some_iff (a : Addr) (r : Reg) : regAt a = some r ↔ r.address = a.toNat := by
  unfold regAt
  constructor
  · intro h
    split at h
    · exact address_of_regAtAligned ‹_› h
    · cases h
  · intro h
    rw [← h, if_pos r.address_aligned, regAtAligned_address]

/-- Every mapped address is the address of a register or buffer word (20_memory.md R91). -/
theorem exists_address_of_mapped {n : Nat} (h : mappedAddress n) : ∃ r : Reg, r.address = n := by
  obtain ⟨h4, hrange⟩ := h
  have hlow : ∀ k : Fin 18, (regAtAligned (4 * k.val)).isSome := by decide
  rcases (by omega : n < 0x048 ∨ (0x050 ≤ n ∧ n < 0x070) ∨ (0x070 ≤ n ∧ n < 0x090) ∨ n = 0x090 ∨ n = 0x094 ∨ n = 0x098 ∨
      (0x0A0 ≤ n ∧ n < 0x0C0) ∨ (0x0C0 ≤ n ∧ n < 0x0E0) ∨ (0x0E0 ≤ n ∧ n < 0x100) ∨ (0x100 ≤ n ∧ n < 0x120) ∨
      (0x400 ≤ n ∧ n < 0x504) ∨ (0x600 ≤ n ∧ n < 0x704)) with
    h | ⟨h, h'⟩ | ⟨h, h'⟩ | h | h | h | ⟨h, h'⟩ | ⟨h, h'⟩ | ⟨h, h'⟩ | ⟨h, h'⟩ | ⟨h, h'⟩ | ⟨h, h'⟩
  · obtain ⟨r, hr⟩ := Option.isSome_iff_exists.mp (hlow ⟨n / 4, by omega⟩)
    have hn : 4 * (n / 4) = n := by omega
    exact ⟨r, address_of_regAtAligned h4 (hn ▸ hr)⟩
  · exact ⟨.medIn (laneOf 0x050 n), laneOf_address (by omega) h h'⟩
  · exact ⟨.medOut (laneOf 0x070 n), laneOf_address (by omega) h h'⟩
  · exact ⟨.maTsIn, h.symm⟩
  · exact ⟨.maTsOut, h.symm⟩
  · exact ⟨.maStat, h.symm⟩
  · exact ⟨.maIn (laneOf 0x0A0 n), laneOf_address (by omega) h h'⟩
  · exact ⟨.maOut (laneOf 0x0C0 n), laneOf_address (by omega) h h'⟩
  · exact ⟨.maNum (laneOf 0x0E0 n), laneOf_address (by omega) h h'⟩
  · exact ⟨.maDen (laneOf 0x100 n), laneOf_address (by omega) h h'⟩
  · exact ⟨.txBuf (bufWordOf 0x400 n), bufWordOf_address (base := 0x400) (by omega) h h'⟩
  · exact ⟨.rxBuf (bufWordOf 0x600 n), bufWordOf_address (base := 0x600) (by omega) h h'⟩

/-- A bus read at the address of a register or buffer word gives its word (20_memory.md R97). -/
theorem State.busRead_of_address (s : State) {a : Addr} {r : Reg} (h : r.address = a.toNat) :
    s.busRead a = some (s.readReg r) := by
  unfold State.busRead
  rw [(regAt_eq_some_iff a r).mpr h]
  rfl

/-! ### Host writes by access type -/

/-- How many low bits of its word a host write puts into a register: the read-write registers, EVENT, CMD and the buffers
apart (10_state.md R65, R66). -/
def Reg.writtenBits (r : Reg) : Nat :=
  match r with
  | .irqEn => 4
  | .toNormal | .toScan | .guard | .medIn _ | .maIn _ => 16
  | .medTsIn | .maTsIn => 32
  | _ => 0

theorem Reg.writtenBits_le (r : Reg) : r.writtenBits ≤ 32 := by
  cases r <;> simp [Reg.writtenBits]

/-- A read-write register reads back the bits it takes, 0 above them (10_state.md R65). -/
theorem State.readReg_writeReg_self {s : State} {r : Reg} (d : Word) (h : r.writtenBits ≠ 0) :
    (s.writeReg r d).readReg r = (d.extractLsb' 0 r.writtenBits).setWidth 32 := by
  rw [← BitVec.setWidth_eq_extractLsb' r.writtenBits_le]
  cases r with
  | irqEn | toNormal | toScan | guard => rfl
  | medTsIn | maTsIn => exact (BitVec.setWidth_eq _).symm.trans (congrArg _ (BitVec.setWidth_eq _).symm)
  | medIn c | maIn c => simp only [State.readReg, State.writeReg, Lanes.get_set, if_true, Reg.writtenBits]
  | _ => exact absurd rfl h

/-- A register below the buffers that takes no bit and is not EVENT ignores a write (10_state.md R66). -/
theorem State.writeReg_readOnly {s : State} {r : Reg} (d : Word) (h : r.writtenBits = 0) (he : r ≠ .event)
    (hlow : r.address < 0x120) : s.writeReg r d = s := by
  cases r with
  | event => exact absurd rfl he
  | txBuf k | rxBuf k => simp only [Reg.address, Config.txBase, Config.rxBase] at hlow; omega
  | irqEn | toNormal | toScan | guard | medIn | maIn | medTsIn | maTsIn => cases h
  | _ => rfl

/-- A register write below the buffers leaves every other register's word alone but STATUS (10_state.md R33, R65). -/
theorem State.readReg_writeReg_ne {s : State} {r q : Reg} (d : Word) (hne : q ≠ r) (hstatus : q ≠ .status)
    (hlow : r.address < 0x120) : (s.writeReg r d).readReg q = s.readReg q := by
  by_cases hro : r.writtenBits = 0 ∧ r ≠ .event
  · rw [State.writeReg_readOnly d hro.1 hro.2 hlow]
  cases r with
  | event | irqEn | toNormal | toScan | guard | medTsIn | maTsIn =>
    cases q <;> try contradiction
    all_goals rfl
  | medIn c | maIn c =>
    cases q with
    | medIn c' | maIn c' =>
      simp only [ne_eq, Reg.medIn.injEq, Reg.maIn.injEq] at hne
      simp [State.readReg, State.writeReg, Lanes.get_set, hne]
    | _ => rfl
  | _ => exact absurd ⟨rfl, by simp⟩ hro

/-- A register below the buffers is written without touching them (20_memory.md R93). -/
theorem State.writeReg_mem {s : State} {r : Reg} (d : Word) (hlow : r.address < 0x120) :
    (s.writeReg r d).mem = s.mem := by
  cases r with
  | txBuf k | rxBuf k => simp only [Reg.address, Config.txBase, Config.rxBase] at hlow; omega
  | _ => rfl

/-- A register below the buffers is never gated (20_memory.md R98). -/
theorem State.writeGated_eq_false {s : State} {r : Reg} (hlow : r.address < 0x120) : s.writeGated r = false := by
  cases r with
  | txBuf k | rxBuf k => simp only [Reg.address, Config.txBase, Config.rxBase] at hlow; omega
  | _ => rfl

/-- A write to a register below the buffers but CMD is performed and answered (20_memory.md R97). -/
theorem hostWriteEvent_of_address {s : State} {a : Addr} {r : Reg} (d : Word) (h : r.address = a.toNat)
    (hcmd : r ≠ .cmd) (hlow : r.address < 0x120) :
    hostWriteEvent a d s = .next ((s.writeReg r d).answer .written) := by
  have htarget : s.busWriteTarget a = some r := by
    unfold State.busWriteTarget
    rw [(regAt_eq_some_iff a r).mpr h, Option.bind_some, State.writeGated_eq_false hlow]
    rfl
  unfold hostWriteEvent
  rw [htarget]
  cases r with
  | cmd => exact absurd rfl hcmd
  | _ => rfl

/-- A host write to a register below the buffers leaves what a host reads at every other address but STATUS's. -/
theorem State.busRead_writeReg_ne {s : State} {a b : Addr} {r : Reg} (d : Word) (h : r.address = a.toNat)
    (hlow : r.address < 0x120) (hb : b ≠ a) (hstatus : b ≠ 0x008#12) :
    (s.writeReg r d).busRead b = s.busRead b := by
  unfold State.busRead
  cases hq : regAt b with
  | none => rfl
  | some q =>
    have hqb := (regAt_eq_some_iff b q).mp hq
    have hne : q ≠ r := fun e => hb (BitVec.eq_of_toNat_eq (by rw [← hqb, ← h, e]))
    have hqs : q ≠ .status := fun e => hstatus (BitVec.eq_of_toNat_eq (by rw [← hqb, e]; rfl))
    exact congrArg some (State.readReg_writeReg_ne d hne hqs hlow)

/-! ### The registers of each access type, by address -/

/-- The 16-bit read-write registers: TO_NORMAL, TO_SCAN, GUARD and the sample inputs (10_state.md R39..R41, R49, R53). -/
theorem Reg.writtenBits_of_half {r : Reg} {a : Addr} (h : r.address = a.toNat)
    (ha : a ∈ [0x01C#12, 0x020#12, 0x024#12] ∨ (0x050 ≤ a.toNat ∧ a.toNat < 0x070) ∨
      (0x0A0 ≤ a.toNat ∧ a.toNat < 0x0C0)) : r.writtenBits = 16 := by
  simp only [List.mem_cons, List.not_mem_nil, or_false, ← BitVec.toNat_inj, ← h, BitVec.toNat_ofNat] at ha
  cases r <;> simp only [Reg.address, Config.txBase, Config.rxBase, Reg.writtenBits] at ha ⊢ <;> omega

/-- The read-only registers: ID, STATUS, ERR, CRC, the lengths and counters and the filters' outputs (10_state.md
R31..R58). -/
theorem Reg.writtenBits_of_readOnly {r : Reg} {a : Addr} (h : r.address = a.toNat)
    (ha : a ∈ [0x000#12, 0x008#12, 0x014#12, 0x018#12] ∨ (0x028 ≤ a.toNat ∧ a.toNat < 0x040) ∨ a = 0x044#12 ∨
      (0x070 ≤ a.toNat ∧ a.toNat < 0x090) ∨ (0x094 ≤ a.toNat ∧ a.toNat < 0x0A0) ∨
      (0x0C0 ≤ a.toNat ∧ a.toNat < 0x120)) : r.writtenBits = 0 ∧ r ≠ .event := by
  simp only [List.mem_cons, List.not_mem_nil, or_false, ← BitVec.toNat_inj, ← h, BitVec.toNat_ofNat] at ha
  refine ⟨?_, fun he => ?_⟩
  · cases r <;> simp only [Reg.address, Config.txBase, Config.rxBase, Reg.writtenBits] at ha ⊢ <;> omega
  · rw [he] at ha
    simp only [Reg.address] at ha
    omega

end Machine

open Machine

/-- Settles O52: the register at the address takes the write by its access type, and no other word but STATUS moves. -/
theorem registerWritesFollowTheAccessTypes : Obligations.RegisterWritesFollowTheAccessTypes := by
  intro s a d rest hmapped hlow hcmd hpending
  obtain ⟨r, hr⟩ := exists_address_of_mapped hmapped
  have hreg : ∀ q : Reg, q.address = a.toNat → r = q := fun q hq => Reg.address_injective (hr.trans hq.symm)
  rw [← hr] at hlow
  have hr_cmd : r ≠ .cmd := fun e => hcmd (BitVec.eq_of_toNat_eq (by rw [← hr, e]; rfl))
  have hstep : step s = .next ((({ s with pending := rest } : State).writeReg r d).answer .written) :=
    (step_cons hpending).trans (hostWriteEvent_of_address d hr hr_cmd hlow)
  have hself : ((({ s with pending := rest } : State).writeReg r d).answer .written).busRead a =
      some ((({ s with pending := rest } : State).writeReg r d).readReg r) :=
    State.busRead_of_address (({ s with pending := rest } : State).writeReg r d) hr
  refine ⟨_, hstep, rfl, State.writeReg_keeps_pending _ r d, ?_, State.writeReg_rx _ r d, State.writeReg_tx _ r d,
    State.writeReg_guardCnt _ r d, State.writeReg_mem d hlow, State.writeReg_med _ r d, State.writeReg_ma _ r d,
    ?_, ?_, ?_, ?_, ?_⟩
  · intro b hb hstatus
    exact State.busRead_writeReg_ne (s := { s with pending := rest }) d hr hlow hb hstatus
  · rintro rfl
    obtain rfl := hreg .event rfl
    exact hself
  · rintro rfl
    obtain rfl := hreg .irqEn rfl
    rw [hself, State.readReg_writeReg_self d (by decide)]
    rfl
  · intro ha
    have h16 := Reg.writtenBits_of_half hr ha
    rw [hself, State.readReg_writeReg_self d (by omega), h16]
  · intro ha
    simp only [List.mem_cons, List.not_mem_nil, or_false] at ha
    rcases ha with rfl | rfl
    · obtain rfl := hreg .medTsIn rfl
      exact hself
    · obtain rfl := hreg .maTsIn rfl
      exact hself
  · intro ha
    obtain ⟨h0, he⟩ := Reg.writtenBits_of_readOnly hr ha
    rw [State.writeReg_readOnly d h0 he hlow]
    rfl

end Sys2Proof

namespace Sys2Proof

namespace Machine

/-! ### The fields of STATUS -/

/-- STATUS, bit by bit (10_state.md R33). -/
theorem State.statusWord_getLsbD (s : State) (i : Nat) :
    s.statusWord.getLsbD i =
      if i < 3 then s.rx.state.code.getLsbD i
      else if i = 3 then (shapeBit s.rx.shape).getLsbD 0
      else if i = 4 then s.rx.scan
      else if i = 5 then s.tx.busy
      else if i = 6 then s.guardActive
      else if i = 7 then s.rx.xactPend
      else if i = 8 then s.med.warm
      else if i < 11 then (BitVec.ofNat 2 s.med.idx.val).getLsbD (i - 9)
      else if i = 11 then s.irq
      else false := by
  show BitVec.getLsbD (w := 20 + 1 + 2 + 1 + 1 + 1 + 1 + 1 + 1 + 3) _ i = _
  simp only [State.statusWord, BitVec.getLsbD_append]
  by_cases hi : i < 12
  · interval_cases i <;> simp
  · iterate 18 rw [if_neg (by omega)]
    exact BitVec.getLsbD_zero

/-- Every receive state has its own code (10_state.md R34). -/
theorem RxState.code_eq_iff (r q : RxState) : r.code = q.code ↔ r = q := by
  cases r <;> cases q <;> simp [RxState.code]

/-- The receive state's code stands in bits 2:0 (10_state.md R33, R34). -/
theorem State.statusWord_code (s : State) : s.statusWord.extractLsb' 0 3 = s.rx.state.code := by
  ext i hi
  rw [BitVec.getElem_extractLsb', State.statusWord_getLsbD, if_pos (by omega), Nat.zero_add, BitVec.getLsbD_eq_getElem]

theorem State.statusWord_code_eq_iff (s : State) (q : RxState) :
    s.statusWord.extractLsb' 0 3 = q.code ↔ s.rx.state = q := by
  rw [State.statusWord_code, RxState.code_eq_iff]

/-- The RX_SHAPE bit is up exactly for shape B (10_state.md R33). -/
theorem shapeBit_getLsbD_iff (sh : Shape) : (shapeBit sh).getLsbD 0 = true ↔ sh = .b := by
  cases sh <;> decide

/-- MED_IDX stands in bits 10:9 (10_state.md R33). -/
theorem State.statusWord_medIdx (s : State) : (s.statusWord.extractLsb' 9 2).toNat = s.med.idx.val := by
  have h : s.statusWord.extractLsb' 9 2 = BitVec.ofNat 2 s.med.idx.val := by
    ext i hi
    rw [BitVec.getElem_extractLsb', State.statusWord_getLsbD]
    iterate 7 rw [if_neg (by omega)]
    rw [if_pos (by omega), Nat.add_sub_cancel_left, BitVec.getLsbD_eq_getElem]
  rw [h, BitVec.toNat_ofNat]
  exact Nat.mod_eq_of_lt (by omega)

/-- Bits 31:12 of STATUS are 0 (10_state.md R33). -/
theorem State.statusWord_high (s : State) : s.statusWord.extractLsb' 12 20 = 0#20 := by
  ext i hi
  rw [BitVec.getElem_extractLsb', State.statusWord_getLsbD, BitVec.getElem_zero]
  iterate 9 rw [if_neg (by omega)]

end Machine

open Machine

/-- Settles O53: STATUS field by field, from its bits. -/
theorem statusWordFields : Obligations.StatusWordFields := by
  intro s
  have hbit := s.statusWord_getLsbD
  have hstate := s.statusWord_code_eq_iff
  exact ⟨s.statusWord, rfl, hstate .idle, hstate .waitAddress, hstate .waitHeader, hstate .waitBody, hstate .complete,
    hstate .timeout, hstate .framingError, hstate .crcError, by rw [hbit 3]; exact shapeBit_getLsbD_iff _, hbit 4, hbit 5,
    by rw [hbit 6]; exact bne_iff_ne, hbit 7, hbit 8, s.statusWord_medIdx, by rw [hbit 11]; exact bne_iff_ne,
    s.statusWord_high⟩

end Sys2Proof

namespace Sys2Proof

namespace Machine

/-! ### The values after Reset -/

/-- The register space is a 4 KB window (20_memory.md R90). -/
theorem Reg.address_lt (r : Reg) : r.address < 4096 := by
  cases r <;> simp only [Reg.address, Config.txBase, Config.rxBase] <;> omega

/-- A bus read at a register's own address gives its word (20_memory.md R97). -/
theorem State.busRead_address (s : State) (r : Reg) : s.busRead (BitVec.ofNat 12 r.address) = some (s.readReg r) :=
  s.busRead_of_address ((BitVec.toNat_ofNat _ _).trans (Nat.mod_eq_of_lt r.address_lt)).symm

end Machine

open Machine

/-- Settles O13: each address read as its register, which holds its value of 10_state.md R64. -/
theorem resetRegisterReads : Obligations.ResetRegisterReads := by
  have hread := State.reset.busRead_address
  refine ⟨hread .id, hread .cmd, hread .status, hread .event, hread .irqEn, hread .err, hread .crc, hread .toNormal,
    hread .toScan, hread .guard, ?_, fun c => ⟨?_, ?_, ?_, ?_, ?_, ?_⟩⟩
  · simp only [List.forall_mem_cons]
    exact ⟨hread .txLen, hread .txPos, hread .rxLen, hread .rxExpect, hread .rxCrc, hread .timer, hread .medTsIn,
      hread .medTsOut, hread .maTsIn, hread .maTsOut, hread .maStat, fun _ h => nomatch h⟩
  · exact (hread (.medIn c)).trans (by simp [State.readReg, State.reset])
  · exact (hread (.medOut c)).trans (by simp [State.readReg, State.reset])
  · exact (hread (.maIn c)).trans (by simp [State.readReg, State.reset])
  · exact (hread (.maOut c)).trans (by simp [State.readReg, State.reset])
  · exact (hread (.maNum c)).trans (by simp [State.readReg, State.reset])
  · exact (hread (.maDen c)).trans (by simp [State.readReg, State.reset])

/-- Settles O56: Reset leaves an idle transmitter, an idle receiver and a unit that has seen nothing. -/
theorem resetMeetsTheInvariants : Obligations.ResetMeetsTheInvariants :=
  ⟨.of_reset State.reset_wf rfl rfl, .of_idle rfl Bool.noConfusion rfl (Nat.zero_le _) (.inl rfl),
    .of_start (.inl rfl) rfl rfl rfl rfl rfl rfl rfl fun h => absurd rfl h⟩

end Sys2Proof

/-! Proofs of the statements on the host register space (20_memory.md): the map, what the bus refuses, what a read
answers, and the buffer words. -/

namespace Sys2Proof

namespace Machine

/-! ### The mapped addresses -/

/-- Every register and buffer word lies in the map (20_memory.md R91). -/
theorem Reg.mappedAddress_address (r : Reg) : mappedAddress r.address := by
  refine ⟨r.address_aligned, ?_⟩
  cases r <;> simp only [Reg.address, Config.txBase, Config.rxBase] <;> omega

/-- The mapped addresses are those of the registers and buffer words (20_memory.md R91). -/
theorem mappedAddress_iff_exists_address (n : Nat) : mappedAddress n ↔ ∃ r : Reg, r.address = n :=
  ⟨exists_address_of_mapped, fun ⟨r, hr⟩ => hr ▸ r.mappedAddress_address⟩

/-- An address reaches nothing exactly when it is not mapped (20_memory.md R91, R95). -/
theorem regAt_eq_none_iff (a : Addr) : regAt a = none ↔ ¬ mappedAddress a.toNat := by
  simp only [Option.eq_none_iff_forall_ne_some, ne_eq, regAt_eq_some_iff, mappedAddress_iff_exists_address, not_exists]

/-! ### Where an access goes -/

/-- The gates of the two buffers, by address (20_memory.md R98). -/
theorem State.writeGated_iff (s : State) (r : Reg) :
    s.writeGated r = true ↔
      (0x400 ≤ r.address ∧ r.address < 0x504 ∧ s.tx.busy = true) ∨
      (0x600 ≤ r.address ∧ r.address < 0x704 ∧ (s.rx.state.waiting = true ∨ s.rx.xactPend = true)) := by
  rw [← State.rxBusy_eq_true]
  cases r with
  | txBuf k =>
    have hk : 0x400 ≤ (Reg.txBuf k).address ∧ (Reg.txBuf k).address < 0x504 ∧ ¬ 0x600 ≤ (Reg.txBuf k).address := by
      simp only [Reg.address, Config.txBase]
      omega
    simp [State.writeGated, hk]
  | rxBuf k =>
    have hk : ¬ (Reg.rxBuf k).address < 0x504 ∧ 0x600 ≤ (Reg.rxBuf k).address ∧ (Reg.rxBuf k).address < 0x704 := by
      simp only [Reg.address, Config.rxBase]
      omega
    simp [State.writeGated, hk]
  | _ =>
    simp only [State.writeGated, Reg.address, Bool.false_eq_true, false_iff]
    omega

/-- A host write reaches the register at its address unless that register is gated (20_memory.md R96, R98). -/
theorem State.busWriteTarget_eq_some_iff (s : State) (a : Addr) (r : Reg) :
    s.busWriteTarget a = some r ↔ r.address = a.toNat ∧ s.writeGated r = false := by
  rw [← regAt_eq_some_iff]
  refine ⟨State.busWriteTarget_eq_some, fun ⟨hr, hgate⟩ => ?_⟩
  unfold State.busWriteTarget
  rw [hr, Option.bind_some, hgate]
  rfl

/-- A host write that reaches nothing leaves a bus error and nothing else (20_memory.md R96). -/
theorem hostWriteEvent_of_target_none {s : State} {a : Addr} (d : Word) (h : s.busWriteTarget a = none) :
    hostWriteEvent a d s = .next (s.answer .writeError) := by
  unfold hostWriteEvent
  rw [h]

/-- A host write that reaches a register other than CMD writes it (20_memory.md R97). -/
theorem hostWriteEvent_of_target {s : State} {a : Addr} {r : Reg} (d : Word) (h : s.busWriteTarget a = some r)
    (hcmd : r ≠ .cmd) : hostWriteEvent a d s = .next ((s.writeReg r d).answer .written) := by
  unfold hostWriteEvent
  rw [h]
  cases r with
  | cmd => exact absurd rfl hcmd
  | _ => rfl

/-- A host read of a mapped address is answered with its word (20_memory.md R97). -/
theorem hostReadEvent_of_address {s : State} {a : Addr} {r : Reg} (h : r.address = a.toNat) :
    hostReadEvent a s = .next (s.answer (.readData (s.readReg r))) := by
  unfold hostReadEvent
  rw [s.busRead_of_address h]

/-- A host read of an address that is not mapped is refused, with data 0 (20_memory.md R96). -/
theorem hostReadEvent_of_not_mapped {s : State} {a : Addr} (h : ¬ mappedAddress a.toNat) :
    hostReadEvent a s = .next (s.answer (.readError 0#32)) := by
  have hread : s.busRead a = none := by
    unfold State.busRead
    rw [(regAt_eq_none_iff a).mpr h]
    rfl
  unfold hostReadEvent
  rw [hread]

/-! ### The fields of MA_STAT -/

/-- MA_STAT, bit by bit (10_state.md R54). -/
theorem State.maStatWord_getLsbD (s : State) (i : Nat) :
    s.maStatWord.getLsbD i =
      if i < 4 then s.ma.n.getLsbD i
      else if i < 8 then (BitVec.ofNat 4 s.ma.widx.val).getLsbD (i - 4)
      else if i < 12 then s.ma.seen.getLsbD (i - 8)
      else if i = 12 then s.ma.tsv
      else if i = 13 then s.maSteady
      else false := by
  show BitVec.getLsbD (w := 18 + 1 + 1 + 4 + 4 + 4) _ i = _
  simp only [State.maStatWord, BitVec.getLsbD_append]
  by_cases hi : i < 14
  · interval_cases i <;> simp
  · iterate 10 rw [if_neg (by omega)]
    exact BitVec.getLsbD_zero

/-- MA_N stands in bits 3:0 (10_state.md R54). -/
theorem State.maStatWord_n (s : State) : s.maStatWord.extractLsb' 0 4 = s.ma.n := by
  ext i hi
  rw [BitVec.getElem_extractLsb', State.maStatWord_getLsbD, if_pos (by omega), Nat.zero_add, BitVec.getLsbD_eq_getElem]

/-- MA_WIDX stands in bits 7:4 (10_state.md R54). -/
theorem State.maStatWord_widx (s : State) : (s.maStatWord.extractLsb' 4 4).toNat = s.ma.widx.val := by
  have h : s.maStatWord.extractLsb' 4 4 = BitVec.ofNat 4 s.ma.widx.val := by
    ext i hi
    rw [BitVec.getElem_extractLsb', State.maStatWord_getLsbD, if_neg (by omega), if_pos (by omega),
      Nat.add_sub_cancel_left, BitVec.getLsbD_eq_getElem]
  rw [h, BitVec.toNat_ofNat]
  exact Nat.mod_eq_of_lt (by omega)

/-- MA_SEEN stands in bits 11:8 (10_state.md R54). -/
theorem State.maStatWord_seen (s : State) : s.maStatWord.extractLsb' 8 4 = s.ma.seen := by
  ext i hi
  rw [BitVec.getElem_extractLsb', State.maStatWord_getLsbD, if_neg (by omega), if_neg (by omega), if_pos (by omega),
    Nat.add_sub_cancel_left, BitVec.getLsbD_eq_getElem]

/-- Bits 31:14 of MA_STAT are 0 (10_state.md R54). -/
theorem State.maStatWord_high (s : State) : s.maStatWord.extractLsb' 14 18 = 0#18 := by
  ext i hi
  rw [BitVec.getElem_extractLsb', State.maStatWord_getLsbD, BitVec.getElem_zero]
  iterate 5 rw [if_neg (by omega)]

/-- The unit is steady exactly when a configured window is full (10_state.md R54). -/
theorem State.maSteady_iff (s : State) : s.maSteady = true ↔ s.ma.n ≠ 0#4 ∧ s.ma.seen = s.ma.n := by
  simp [State.maSteady]

/-! ### The buffer words -/

/-- A register at or above 0x400 is a buffer word: it is written and read as the word at its address (20_memory.md
R93). -/
theorem Reg.buffer_of_le {r : Reg} (h : 0x400 ≤ r.address) :
    r ≠ .cmd ∧ (∀ (s : State) (d : Word), s.writeReg r d = s.setWord r.address d) ∧
      ∀ s : State, s.readReg r = s.wordAt r.address := by
  cases r with
  | txBuf k | rxBuf k => exact ⟨Reg.noConfusion, fun _ _ => rfl, fun _ => rfl⟩
  | _ =>
    simp only [Reg.address] at h
    omega

/-- A word set changes the buffers alone (20_memory.md R93). -/
theorem State.setWord_changes_mem (s : State) (a : Nat) (d : Word) :
    ∃ m : Memory, s.setWord a d = { s with mem := m } :=
  ⟨_, rfl⟩

/-- Byte `j` of a word set at `a` is read at `a + j` (20_memory.md R93). -/
theorem State.byteAt_setWord_add (s : State) (a : Nat) (d : Word) {j : Nat} (hj : j < 4) :
    (s.setWord a d).byteAt (a + j) = d.extractLsb' (8 * j) 8 := by
  rw [State.byteAt_setWord]
  interval_cases j <;> simp

/-- A word set leaves the bytes around it alone (20_memory.md R93). -/
theorem State.byteAt_setWord_of_outside (s : State) {a x : Nat} (d : Word) (hx : x < a ∨ a + 4 ≤ x) :
    (s.setWord a d).byteAt x = s.byteAt x := by
  rw [State.byteAt_setWord]
  iterate 4 rw [if_neg (by omega)]

/-- A word is its four bytes, the lowest least significant (20_memory.md R93). -/
theorem append_bytes_eq (d : Word) :
    d.extractLsb' 24 8 ++ d.extractLsb' 16 8 ++ d.extractLsb' 8 8 ++ d.extractLsb' 0 8 = d := by
  ext i hi
  simp only [BitVec.getElem_append, BitVec.getElem_extractLsb']
  interval_cases i <;> rfl

/-- A word set is read back whole (20_memory.md R93). -/
theorem State.wordAt_setWord (s : State) (a : Nat) (d : Word) : (s.setWord a d).wordAt a = d := by
  have hbyte : ∀ {j : Nat}, j < 4 → (s.setWord a d).byteAt (a + j) = d.extractLsb' (8 * j) 8 :=
    s.byteAt_setWord_add a d
  calc (s.setWord a d).wordAt a
      = d.extractLsb' 24 8 ++ d.extractLsb' 16 8 ++ d.extractLsb' 8 8 ++ d.extractLsb' 0 8 := by
        unfold State.wordAt
        rw [hbyte (j := 3) (by decide), hbyte (j := 2) (by decide), hbyte (j := 1) (by decide),
          show (s.setWord a d).byteAt a = d.extractLsb' 0 8 from hbyte (j := 0) (by decide)]
    _ = d := append_bytes_eq d

/-- A host write to a buffer word whose gate is open sets that word and is answered (20_memory.md R93, R98). -/
theorem hostWriteEvent_of_buffer {s : State} {a : Addr} {r : Reg} (d : Word) (h : r.address = a.toNat)
    (hbuf : 0x400 ≤ a.toNat) (hgate : s.writeGated r = false) :
    hostWriteEvent a d s = .next ((s.setWord a.toNat d).answer .written) := by
  obtain ⟨hcmd, hwrite, -⟩ := Reg.buffer_of_le (h ▸ hbuf)
  rw [hostWriteEvent_of_target d ((s.busWriteTarget_eq_some_iff a r).mpr ⟨h, hgate⟩) hcmd, hwrite, h]

end Machine

open Machine

/-- Settles O48: the map inverts the table of addresses, and the table's addresses are the mapped ones. -/
theorem registerMapIsTheTable : Obligations.RegisterMapIsTheTable :=
  ⟨regAt_eq_some_iff, regAt_eq_none_iff⟩

/-- Settles O49: a write that is refused has no register to go to, and a read that is refused has no word to give. -/
theorem busErrorChangesNothing : Obligations.BusErrorChangesNothing := by
  refine ⟨fun s a d rest hrefused hpending => ?_, fun s a rest hunmapped hpending =>
    (step_cons hpending).trans (hostReadEvent_of_not_mapped hunmapped)⟩
  have htarget : s.busWriteTarget a = none := by
    refine Option.eq_none_iff_forall_ne_some.mpr fun r hr => ?_
    obtain ⟨haddr, hopen⟩ := (s.busWriteTarget_eq_some_iff a r).mp hr
    rw [← haddr] at hrefused
    rcases hrefused with hunmapped | hgated
    · exact hunmapped r.mappedAddress_address
    · exact absurd ((s.writeGated_iff r).mpr hgated) (by simp [hopen])
  exact (step_cons hpending).trans (hostWriteEvent_of_target_none (s := { s with pending := rest }) d htarget)

/-- Settles O50: a mapped address is its register's, and each register's word is read at its own address. -/
theorem mappedReadsHaveNoSideEffect : Obligations.MappedReadsHaveNoSideEffect := by
  refine ⟨fun s a rest hmapped hpending => ?_, fun s => ?_, fun s => ?_, fun s c => ?_, fun s k => ?_⟩
  · obtain ⟨r, hr⟩ := exists_address_of_mapped hmapped
    refine ⟨s.readReg r, s.busRead_of_address hr, (step_cons hpending).trans ?_⟩
    exact (hostReadEvent_of_address hr).trans (by rw [State.readReg_pending]; rfl)
  · have hread := s.busRead_address
    exact ⟨hread .id, hread .cmd, hread .event, hread .irqEn, hread .err, hread .crc, hread .toNormal, hread .toScan,
      hread .guard, hread .txLen, hread .txPos, hread .rxLen, hread .rxExpect, hread .rxCrc, hread .timer,
      hread .medTsIn, hread .medTsOut, hread .maTsIn, hread .maTsOut⟩
  · have hbit := s.maStatWord_getLsbD
    exact ⟨s.maStatWord, s.busRead_address .maStat, s.maStatWord_n, s.maStatWord_widx, s.maStatWord_seen, hbit 12,
      by rw [hbit 13]; exact s.maSteady_iff, s.maStatWord_high⟩
  · have hread := s.busRead_address
    exact ⟨hread (.medIn c), hread (.medOut c), hread (.maIn c), hread (.maOut c), hread (.maNum c), hread (.maDen c)⟩
  · exact ⟨s.busRead_address (.txBuf k), s.busRead_address (.rxBuf k)⟩

/-- Settles O51: the address is a buffer word's, the open gate lets the write set it, and the word set is read back. -/
theorem bufferWordWriteThenRead : Obligations.BufferWordWriteThenRead := by
  intro s a d rest h4 hopen hpending
  have hbuf : 0x400 ≤ a.toNat := by omega
  obtain ⟨r, hr⟩ := exists_address_of_mapped (n := a.toNat) ⟨h4, by omega⟩
  have hgate : s.writeGated r = false := by
    rw [← Bool.not_eq_true, State.writeGated_iff, hr]
    rcases hopen with ⟨hlo, hhi, hbusy⟩ | ⟨hlo, hhi, hwait, hpend⟩
    · simp only [hbusy, Bool.false_eq_true, and_false, false_or]
      omega
    · simp only [hwait, hpend, Bool.false_eq_true, or_self, and_false, or_false]
      omega
  refine ⟨_, (step_cons hpending).trans (hostWriteEvent_of_buffer (s := { s with pending := rest }) d hr hbuf hgate),
    ?_, fun j hj => ?_, fun x hx => ?_, ?_⟩
  · obtain ⟨m, hm⟩ := State.setWord_changes_mem { s with pending := rest } a.toNat d
    rw [hm]
    rfl
  · rw [State.answer_byteAt, State.byteAt_setWord_add _ _ d hj]
  · rw [State.answer_byteAt, State.byteAt_setWord_of_outside _ d hx]
    rfl
  · obtain ⟨-, -, hread⟩ := Reg.buffer_of_le (hr ▸ hbuf)
    rw [State.busRead_of_address _ hr, hread, hr]
    exact congrArg some (State.wordAt_setWord _ _ d)

end Sys2Proof

/-! Proofs of the statements on the command word (30_encoding.md): the word and its command determine each other, the
opcode map decides, and a word that is no command's is rejected. -/

namespace Sys2Proof

/-! ### A8 of the commands that take a response shape (30_encoding.md R121) -/

/-- The SHAPE bit carries the shape. -/
theorem shapeScanArg_shape (shape : Shape) (scan : Bool) :
    (if (shapeScanArg shape scan).getLsbD 0 then Shape.b else .a) = shape := by
  cases shape <;> cases scan <;> rfl

/-- The SCAN bit carries the scan flag. -/
theorem shapeScanArg_scan (shape : Shape) (scan : Bool) : (shapeScanArg shape scan).getLsbD 1 = scan := by
  cases shape <;> cases scan <;> rfl

/-- Above SHAPE and SCAN the argument is 0. -/
theorem shapeScanArg_reserved (shape : Shape) (scan : Bool) : shapeScanArg shape scan &&& 0xFC#8 = 0#8 := by
  cases shape <;> cases scan <;> rfl

/-- DECODE, which has no SCAN, leaves that bit 0 too. -/
theorem shapeScanArg_false_reserved (shape : Shape) : shapeScanArg shape false &&& 0xFE#8 = 0#8 := by
  cases shape <;> rfl

/-- An argument byte with its reserved bits 0 is put together again from the shape and the scan flag it carries. -/
theorem shapeScanArg_of_reserved {a : Byte} :
    a &&& 0xFC#8 = 0#8 → shapeScanArg (if a.getLsbD 0 then .b else .a) (a.getLsbD 1) = a := by
  revert a
  decide

/-- The same of DECODE's argument byte, which carries the shape alone. -/
theorem shapeScanArg_false_of_reserved {a : Byte} :
    a &&& 0xFE#8 = 0#8 → shapeScanArg (if a.getLsbD 0 then .b else .a) false = a := by
  revert a
  decide

/-! ### A command and its word -/

/-- A count that fits A16 is read back from it (R120). -/
theorem toNat_ofNat_of_fitsA16 {n : Nat} (h : fitsA16 n = true) : (BitVec.ofNat 16 n).toNat = n :=
  (BitVec.toNat_ofNat ..).trans (Nat.mod_eq_of_lt (of_decide_eq_true h))

/-- A count that fits A8 is read back from it (R120). -/
theorem toNat_ofNat_of_fitsA8 {n : Nat} (h : fitsA8 n = true) : (BitVec.ofNat 8 n).toNat = n :=
  (BitVec.toNat_ofNat ..).trans (Nat.mod_eq_of_lt (of_decide_eq_true h))

/-- A16 read as a count fits A16. -/
theorem fitsA16_toNat (h : Half) : fitsA16 h.toNat = true := decide_eq_true h.isLt

/-- A8 read as a count fits A8. -/
theorem fitsA8_toNat (a : Byte) : fitsA8 a.toNat = true := decide_eq_true a.isLt

/-- A well-formed command is read back from its word (R120, R122, R124). -/
theorem decode_encode {i : Instr} (h : i.WellFormed = true) : decode (encode i) = .ok i := by
  rw [encode_fields, decode_append]
  cases i with
  | nop | crcInit | txSend | rxAbort | medInit | medPush | maPush | softReset => exact if_pos ⟨rfl, rfl⟩
  | crcByte b => exact if_pos rfl
  | crcTxbuf n =>
    refine (if_pos rfl).trans (congrArg Except.ok ?_)
    exact congrArg Instr.crcTxbuf (toNat_ofNat_of_fitsA16 h)
  | encode len =>
    refine (if_pos rfl).trans (congrArg Except.ok ?_)
    exact congrArg Instr.encode (toNat_ofNat_of_fitsA16 h)
  | xact shape scan =>
    refine (if_pos ⟨rfl, shapeScanArg_reserved shape scan⟩).trans (congrArg Except.ok ?_)
    exact congrArg₂ Instr.xact (shapeScanArg_shape shape scan) (shapeScanArg_scan shape scan)
  | rxStart shape scan =>
    refine (if_pos ⟨rfl, shapeScanArg_reserved shape scan⟩).trans (congrArg Except.ok ?_)
    exact congrArg₂ Instr.rxStart (shapeScanArg_shape shape scan) (shapeScanArg_scan shape scan)
  | decode shape len =>
    refine (if_pos (shapeScanArg_false_reserved shape)).trans (congrArg Except.ok ?_)
    exact congrArg₂ Instr.decode (shapeScanArg_shape shape false) (toNat_ofNat_of_fitsA16 h)
  | maInit n =>
    refine (if_pos rfl).trans (congrArg Except.ok ?_)
    exact congrArg Instr.maInit (toNat_ofNat_of_fitsA8 h)

/-- The fields of an accepted word are those of the command it gives, whose counts fit (R120, R122, R123). -/
theorem fields_of_decode_append {h : Half} {a o : Byte} {i : Instr} (hd : decode (h ++ a ++ o) = .ok i) :
    i.WellFormed = true ∧ i.a16 = h ∧ i.a8 = a ∧ o.toNat = i.opcode.toNat := by
  rw [decode_append] at hd
  -- one case per row of the opcode map, in its order; the sixteenth is the illegal opcode
  split at hd
  case h_16 => cases hd
  all_goals
    rename_i ho
    obtain ⟨hc, hi⟩ := (ite_eq_iff.trans (or_iff_left (by simp))).mp hd
    cases hi
  case h_3 => exact ⟨rfl, hc.symm, rfl, ho⟩
  case h_4 | h_5 => exact ⟨fitsA16_toNat h, by simp [Instr.a16], hc.symm, ho⟩
  case h_7 | h_8 => exact ⟨rfl, hc.1.symm, shapeScanArg_of_reserved hc.2, ho⟩
  case h_10 => exact ⟨fitsA16_toNat h, by simp [Instr.a16], shapeScanArg_false_of_reserved hc, ho⟩
  case h_13 => exact ⟨fitsA8_toNat a, hc.symm, by simp [Instr.a8], ho⟩
  all_goals exact ⟨rfl, hc.1.symm, hc.2.symm, ho⟩

/-- A word the decoder accepts is the word of the well-formed command it gives (R120..R124). -/
theorem encode_of_decode {w : Word} {i : Instr} (h : decode w = .ok i) : i.WellFormed = true ∧ encode i = w := by
  rw [← fields_append w] at h
  obtain ⟨hwf, h16, h8, hop⟩ := fields_of_decode_append h
  rw [encode_fields, h16, h8, ← BitVec.eq_of_toNat_eq hop, fields_append]
  exact ⟨hwf, rfl⟩

/-- An accepted word carries the opcode of the command it gives. -/
theorem opField_of_decode {w : Word} {i : Instr} (h : decode w = .ok i) : opField w = i.opcode := by
  rw [← (encode_of_decode h).2, opField_encode]

/-! ### The opcode map (30_encoding.md R124) -/

/-- One row of the opcode map: the match and mask columns, and the command that a word of the row stands for. -/
structure OpcodeRow where
  opcode : Byte
  mask : Word
  command : Word → Instr

/-- The opcode map, row by row; `decode_of_mem_opcodeMap` and `decode_of_unassigned` tie it to the decoder. -/
def opcodeMap : List OpcodeRow :=
  [⟨0x00#8, 0xFFFFFFFF#32, fun _ => .nop⟩,
   ⟨0x01#8, 0xFFFFFFFF#32, fun _ => .crcInit⟩,
   ⟨0x02#8, 0xFFFF00FF#32, fun w => .crcByte (a8Field w)⟩,
   ⟨0x03#8, 0x0000FFFF#32, fun w => .crcTxbuf (a16Field w).toNat⟩,
   ⟨0x10#8, 0x0000FFFF#32, fun w => .encode (a16Field w).toNat⟩,
   ⟨0x11#8, 0xFFFFFFFF#32, fun _ => .txSend⟩,
   ⟨0x12#8, 0xFFFFFCFF#32, fun w => .xact (shapeField w) (scanField w)⟩,
   ⟨0x20#8, 0xFFFFFCFF#32, fun w => .rxStart (shapeField w) (scanField w)⟩,
   ⟨0x21#8, 0xFFFFFFFF#32, fun _ => .rxAbort⟩,
   ⟨0x22#8, 0x0000FEFF#32, fun w => .decode (shapeField w) (a16Field w).toNat⟩,
   ⟨0x30#8, 0xFFFFFFFF#32, fun _ => .medInit⟩,
   ⟨0x31#8, 0xFFFFFFFF#32, fun _ => .medPush⟩,
   ⟨0x40#8, 0xFFFF00FF#32, fun w => .maInit (a8Field w).toNat⟩,
   ⟨0x41#8, 0xFFFFFFFF#32, fun _ => .maPush⟩,
   ⟨0xFF#8, 0xFFFFFFFF#32, fun _ => .softReset⟩]

/-- A word with the opcode of a row is that row's command, its reserved bits checked (R123, R126). -/
theorem decode_of_mem_opcodeMap {row : OpcodeRow} (hrow : row ∈ opcodeMap) {w : Word} (hop : opField w = row.opcode) :
    decode w = checkReserved row.mask w (row.command w) := by
  unfold decode
  rw [hop]
  fin_cases hrow <;> rfl

/-- A word with an opcode of no row has an illegal opcode (R125, R126). -/
theorem decode_of_unassigned {w : Word} (h : opField w ∉ opcodeMap.map (·.opcode)) :
    decode w = .error .illegalOpcode := by
  have hop : opField w = BitVec.ofNat 8 (opField w).toNat := by simp
  rw [hop] at h
  unfold decode
  generalize (opField w).toNat = n at h
  split
  case h_16 => rfl
  all_goals exact absurd (by decide) h

/-- The mask of every row covers the opcode. -/
theorem opField_mask {row : OpcodeRow} (hrow : row ∈ opcodeMap) : opField row.mask = 0xFF#8 := by
  fin_cases hrow <;> rfl

/-! ### The reserved-bit check (30_encoding.md R123) -/

/-- The check accepts exactly the words whose reserved bits are 0. -/
theorem checkReserved_eq_ok_iff (mask w : Word) (i j : Instr) :
    checkReserved mask w i = .ok j ↔ w &&& mask &&& 0xFFFFFF00#32 = 0#32 ∧ i = j := by
  unfold checkReserved
  split <;> simp [*]

/-- What the check does not accept it rejects with RESERVED_FIELD. -/
theorem checkReserved_eq_error {mask w : Word} {i : Instr} (h : checkReserved mask w i ≠ .ok i) :
    checkReserved mask w i = .error .reservedField :=
  if_neg fun h0 => h ((checkReserved_eq_ok_iff mask w i i).mpr ⟨h0, rfl⟩)

/-- A word meets a row's match and mask when it has the row's opcode and passes the reserved-bit check (R124, R126). -/
theorem and_mask_eq_opcode_iff {mask : Word} (hmask : opField mask = 0xFF#8) (w : Word) (op : Byte) :
    w &&& mask = op.setWidth 32 ↔ opField w = op ∧ w &&& mask &&& 0xFFFFFF00#32 = 0#32 := by
  have hop : op.setWidth 32 = (0#16 ++ 0#8 ++ op : Word) := by
    simp [BitVec.setWidth_eq_append (show 8 ≤ 32 by decide)]
  have hclear : (0xFFFFFF00#32 : Word) = (0xFFFF#16 ++ 0xFF#8 ++ 0x00#8 : Word) := by decide
  have hzero : (0#32 : Word) = (0#16 ++ 0#8 ++ 0#8 : Word) := by decide
  have hhalf : ∀ x : Half, x &&& 0xFFFF#16 = x := fun x => BitVec.and_allOnes
  have hbyte : ∀ x : Byte, x &&& 0xFF#8 = x := fun x => BitVec.and_allOnes
  rw [← fields_append w, ← fields_append mask, hmask, hop, hclear, hzero, and_append, and_append]
  simp only [word_eq_iff, a16Field_append, a8Field_append, opField_append, hhalf, hbyte, BitVec.and_zero, and_true]
  rw [← and_assoc, and_comm]

/-- A row's match and mask hold of exactly the words that are decoded to a command of the row's opcode (R124). -/
theorem and_mask_eq_iff_decode {row : OpcodeRow} (hrow : row ∈ opcodeMap) (w : Word) :
    w &&& row.mask = row.opcode.setWidth 32 ↔ ∃ i : Instr, decode w = .ok i ∧ i.opcode = row.opcode := by
  rw [and_mask_eq_opcode_iff (opField_mask hrow)]
  constructor
  · rintro ⟨hop, hreserved⟩
    have hdecode : decode w = .ok (row.command w) := by
      rw [decode_of_mem_opcodeMap hrow hop, checkReserved_eq_ok_iff]
      exact ⟨hreserved, rfl⟩
    exact ⟨_, hdecode, (opField_of_decode hdecode).symm.trans hop⟩
  · rintro ⟨i, hdecode, hi⟩
    have hop : opField w = row.opcode := (opField_of_decode hdecode).trans hi
    rw [decode_of_mem_opcodeMap hrow hop, checkReserved_eq_ok_iff] at hdecode
    exact ⟨hop, hdecode.1⟩

/-- A word of an assigned opcode that is no well-formed command's word has a reserved bit set (R123). -/
theorem decode_of_assigned_not_encode {w : Word} (hop : opField w ∈ opcodeMap.map (·.opcode))
    (hw : ∀ i : Instr, i.WellFormed = true → encode i ≠ w) : decode w = .error .reservedField := by
  obtain ⟨row, hrow, hop⟩ := List.mem_map.mp hop
  have hdecode := decode_of_mem_opcodeMap hrow hop.symm
  rw [hdecode]
  refine checkReserved_eq_error fun haccepted => ?_
  obtain ⟨hwf, hencode⟩ := encode_of_decode (hdecode.trans haccepted)
  exact hw _ hwf hencode

namespace Machine

/-- A step that writes to CMD a word the decoder rejects takes the event, answers the host and records the rejection
(40_control.md R170, 60_exceptions.md R351, R352). -/
theorem step_of_decode_error {s : State} {w : Word} {rest : List AgentEvent} {e : ErrCode}
    (hpending : s.pending = .hostWrite 0x004#12 w :: rest) (hdecode : decode w = .error e) :
    step s = .next (({ s with pending := rest, hostResp := .written }).rejectCommand (opField w) e) := by
  rw [step_cons hpending]
  show issueCommand w _ = _
  unfold issueCommand
  rw [hdecode]
  rfl

end Machine

open Machine

/-- Settles O1: field by field, for each command. -/
theorem decodeInvertsEncode : Obligations.DecodeInvertsEncode := fun _ => decode_encode

/-- Settles O2: each row of the decoder fixes the three fields of the words it accepts. -/
theorem encodeInvertsDecode : Obligations.EncodeInvertsDecode := fun _ _ => encode_of_decode

/-- Settles O3: the two columns are those of `opcodeMap`. -/
theorem matchAndMaskDecideTheCommand : Obligations.MatchAndMaskDecideTheCommand := by
  intro columns hcolumns w
  obtain ⟨row, hrow, rfl⟩ := List.mem_map.mp
    (show columns ∈ opcodeMap.map fun row => (row.opcode, row.mask) from hcolumns)
  exact and_mask_eq_iff_decode hrow w

/-- Settles O4: the decoder gives the error, and the step records it. -/
theorem undecodableWordsAreRejected : Obligations.UndecodableWordsAreRejected :=
  fun _ _ _ hpending =>
    ⟨fun hop => step_of_decode_error hpending (decode_of_unassigned hop),
      fun hop hw => step_of_decode_error hpending (decode_of_assigned_not_encode hop hw)⟩

/-- Settles O5: each word is the word of its command. -/
theorem writtenOutWordsDecode : Obligations.WrittenOutWordsDecode :=
  ⟨decode_encode (i := .nop) rfl, decode_encode (i := .crcByte 0x01#8) rfl, decode_encode (i := .crcTxbuf 6) rfl,
    decode_encode (i := .encode 4) rfl, decode_encode (i := .xact .a true) rfl,
    decode_encode (i := .rxStart .b false) rfl, decode_encode (i := .decode .b 8) rfl,
    decode_encode (i := .medPush) rfl, decode_encode (i := .maInit 5) rfl, decode_encode (i := .softReset) rfl⟩

end Sys2Proof

/-! Proofs of the statements on block control (40_control.md): the issue of a command, the two commands that work on the
block as a whole, and the independence of the CRC and the filters from the wire side. -/

namespace Sys2Proof

open Machine

/-! ### The reserved bits of a row (30_encoding.md R123) -/

/-- The check answers RESERVED_FIELD exactly when a reserved bit is 1. -/
theorem checkReserved_eq_error_iff (mask w : Word) (i : Instr) :
    checkReserved mask w i = .error .reservedField ↔ w &&& mask &&& 0xFFFFFF00#32 ≠ 0#32 := by
  unfold checkReserved
  split <;> simp [*]

/-- A mask whose 1s are the `len` bits from `start` on selects the field of those bits. -/
theorem and_fieldMask_eq_zero_iff (w : Word) {start len : Nat} (hlen : start + len ≤ 32) :
    w &&& (BitVec.allOnes len).setWidth 32 <<< start = 0#32 ↔ w.extractLsb' start len = 0#len := by
  simp only [BitVec.eq_of_getLsbD_eq_iff, BitVec.getLsbD_and, BitVec.getLsbD_shiftLeft, BitVec.getLsbD_setWidth,
    BitVec.getLsbD_allOnes, BitVec.getLsbD_extractLsb', BitVec.getLsbD_zero]
  constructor
  · intro h k hk
    have h32 : start + k < 32 := by omega
    simpa [hk, h32, Nat.lt_of_le_of_lt (Nat.le_add_left k start) h32] using h (start + k) h32
  · intro h k _
    by_cases hfield : start ≤ k ∧ k - start < len
    · obtain ⟨hlow, hhigh⟩ := hfield
      have hbit : w.getLsbD k = false := by simpa [hhigh, Nat.add_sub_of_le hlow] using h (k - start) hhigh
      simp [hbit]
    · simp
      omega

/-- Where a row's mask marks one field above the opcode, those are its reserved bits (R123, R124). -/
theorem reservedExactlyWhen_of_mem_opcodeMap {row : OpcodeRow} (hrow : row ∈ opcodeMap) {start len : Nat}
    (hlen : start + len ≤ 32)
    (hmask : row.mask &&& 0xFFFFFF00#32 = (BitVec.allOnes len).setWidth 32 <<< start) :
    reservedExactlyWhen row.opcode fun w => w.extractLsb' start len ≠ 0#len := by
  intro w hop
  rw [decode_of_mem_opcodeMap hrow hop, checkReserved_eq_error_iff, BitVec.and_assoc, hmask]
  exact not_congr (and_fieldMask_eq_zero_iff w hlen)

/-! ### The issue of a command (40_control.md R170) -/

/-- A word of 32 bits is placed whole. -/
theorem commandWord_toNat (w : Word) : commandWord 32 w.toNat = w := by
  rw [commandWord, Nat.mod_eq_of_lt w.isLt, BitVec.ofNat_toNat, BitVec.setWidth_eq]

namespace Machine

/-- The issue of a command's word is the command. -/
theorem issueCommand_of_decode {w : Word} {i : Instr} (h : decode w = .ok i) (s : State) :
    issueCommand w s = exec i s := by
  simp only [issueCommand, h]

/-- A step that writes to CMD takes the event, answers the host and issues the word. -/
theorem step_of_commandWrite {s : State} {w : Word} {rest : List AgentEvent}
    (h : s.pending = .hostWrite 0x004#12 w :: rest) :
    step s = issueCommand w { s with pending := rest, hostResp := .written } :=
  step_cons h

/-! ### The wire side: transmitter, receiver and guard counter (40_control.md R174) -/

/-- The operation neither reads nor writes the transmitter, the receiver and the guard counter. -/
def IgnoresWireSide (f : State → Result) : Prop :=
  ∀ (s t : State) (tx : TxUnit) (rx : RxUnit) (g : Half), f s = .next t →
    t.tx = s.tx ∧ t.rx = s.rx ∧ t.guardCnt = s.guardCnt ∧
      f { s with tx := tx, rx := rx, guardCnt := g } = .next { t with tx := tx, rx := rx, guardCnt := g }

/-- An update ignores the wire side when it keeps it and does the same to the rest beside any other. -/
theorem IgnoresWireSide.next {f : State → State}
    (h : ∀ (s : State) (tx : TxUnit) (rx : RxUnit) (g : Half),
      (f s).tx = s.tx ∧ (f s).rx = s.rx ∧ (f s).guardCnt = s.guardCnt ∧
        f { s with tx := tx, rx := rx, guardCnt := g } = { f s with tx := tx, rx := rx, guardCnt := g }) :
    IgnoresWireSide fun s => .next (f s) := by
  rintro s _ tx rx g ⟨⟩
  obtain ⟨htx, hrx, hguard, hf⟩ := h s tx rx g
  exact ⟨htx, hrx, hguard, congrArg _ hf⟩

/-- A choice between two operations ignores the wire side when they do and the condition does not read it. -/
theorem IgnoresWireSide.ite {c : State → Prop} [DecidablePred c] {f g : State → Result}
    (hc : ∀ (s : State) (tx : TxUnit) (rx : RxUnit) (n : Half),
      c { s with tx := tx, rx := rx, guardCnt := n } ↔ c s)
    (hf : IgnoresWireSide f) (hg : IgnoresWireSide g) : IgnoresWireSide fun s => if c s then f s else g s := by
  intro s t tx rx n h
  by_cases hcs : c s
  · simp only [hc, if_pos hcs] at h ⊢
    exact hf s t tx rx n h
  · simp only [hc, if_neg hcs] at h ⊢
    exact hg s t tx rx n h

/-- A rejection writes ERR and EVENT alone (60_exceptions.md R352). -/
theorem rejectCommand_ignoresWireSide (op : Byte) (e : ErrCode) :
    IgnoresWireSide fun s => .next (s.rejectCommand op e) :=
  .next fun _ _ _ _ => ⟨rfl, rfl, rfl, rfl⟩

/-! Each command of R174 is such an update, or such a choice between one and a rejection. -/

theorem execNop_ignoresWireSide : IgnoresWireSide execNop :=
  .next fun _ _ _ _ => ⟨rfl, rfl, rfl, rfl⟩

theorem execCrcInit_ignoresWireSide : IgnoresWireSide execCrcInit :=
  .next fun _ _ _ _ => ⟨rfl, rfl, rfl, rfl⟩

theorem execCrcByte_ignoresWireSide (b : Byte) : IgnoresWireSide (execCrcByte b) :=
  .next fun _ _ _ _ => ⟨rfl, rfl, rfl, rfl⟩

theorem execCrcTxbuf_ignoresWireSide (n : Nat) : IgnoresWireSide (execCrcTxbuf n) :=
  .ite (fun _ _ _ _ => Iff.rfl) (rejectCommand_ignoresWireSide _ _) (.next fun _ _ _ _ => ⟨rfl, rfl, rfl, rfl⟩)

theorem execMedInit_ignoresWireSide : IgnoresWireSide execMedInit :=
  .next fun _ _ _ _ => ⟨rfl, rfl, rfl, rfl⟩

theorem execMedPush_ignoresWireSide : IgnoresWireSide execMedPush :=
  .next fun _ _ _ _ => ⟨rfl, rfl, rfl, rfl⟩

theorem execMaInit_ignoresWireSide (n : Nat) : IgnoresWireSide (execMaInit n) :=
  .ite (fun _ _ _ _ => Iff.rfl) (.next fun _ _ _ _ => ⟨rfl, rfl, rfl, rfl⟩) (rejectCommand_ignoresWireSide _ _)

theorem execMaPush_ignoresWireSide : IgnoresWireSide execMaPush :=
  .ite (fun _ _ _ _ => Iff.rfl) (rejectCommand_ignoresWireSide _ _) (.next fun _ _ _ _ => ⟨rfl, rfl, rfl, rfl⟩)

/-! ### After SOFT_RESET (40_control.md R172) -/

/-- No interrupt: EVENT and IRQ_EN are 0. -/
@[simp] theorem State.softReset_irq (s : State) : s.softReset.irq = false := by
  simp [State.irq, State.reset]

/-- Nothing to send: TX_BUSY is 0. -/
@[simp] theorem State.softReset_txValid (s : State) : s.softReset.txValid = false := rfl

end Machine

/-- Settles O9: command by command, each an update of the other state or a choice that does not read the wire side. -/
theorem crcAndFilterCommandsIgnoreTheWireSide : Obligations.CrcAndFilterCommandsIgnoreTheWireSide := by
  intro i s t tx rx g hi
  have hignores : IgnoresWireSide (exec i) := by
    rcases hi with rfl | rfl | ⟨b, rfl⟩ | ⟨n, rfl⟩ | rfl | rfl | ⟨n, rfl⟩ | rfl
    · exact execNop_ignoresWireSide
    · exact execCrcInit_ignoresWireSide
    · exact execCrcByte_ignoresWireSide b
    · exact execCrcTxbuf_ignoresWireSide n
    · exact execMedInit_ignoresWireSide
    · exact execMedPush_ignoresWireSide
    · exact execMaInit_ignoresWireSide n
    · exact execMaPush_ignoresWireSide
  exact hignores s t tx rx g

/-- Settles O6: the step issues the word, and the word is the command's. -/
theorem stepRunsTheDecodedCommand : Obligations.StepRunsTheDecodedCommand := by
  constructor
  · intro s w i rest hpending hdecode
    rw [step_of_commandWrite hpending, issueCommand_of_decode hdecode]
  · intro s i hwf
    rw [step_withFetchWord, commandWord_toNat, issueCommand_of_decode (decode_encode hwf)]
    rfl

/-- Settles O10: NOP's row of the opcode map gives its word and its reserved bits. -/
theorem nopChangesNothing : Obligations.NopChangesNothing :=
  ⟨fun _ => rfl, decode_encode (i := .nop) rfl,
    reservedExactlyWhen_of_mem_opcodeMap (row := ⟨0x00#8, 0xFFFFFFFF#32, fun _ => .nop⟩) (by simp [opcodeMap])
      (by decide) (by decide)⟩

/-- Settles O11: field by field of `State.softReset`. -/
theorem softResetRestoresTheTable : Obligations.SoftResetRestoresTheTable := by
  refine ⟨fun s => ⟨s.softReset, rfl, ?_⟩, decode_encode (i := .softReset) rfl,
    reservedExactlyWhen_of_mem_opcodeMap (row := ⟨0xFF#8, 0xFFFFFFFF#32, fun _ => .softReset⟩) (by simp [opcodeMap])
      (by decide) (by decide)⟩
  exact ⟨s.softReset_rx, s.softReset_tx, s.softReset_event, s.softReset_irqEn, s.softReset_err, s.softReset_crc,
    s.softReset_toNormal, s.softReset_toScan, s.softReset_guard, s.softReset_guardCnt, s.softReset_med, s.softReset_ma,
    s.softReset_byteAt, s.softReset_irq, s.softReset_txValid⟩

end Sys2Proof

/-! Proofs of the statements on the CRC unit (41_crc.md): the update by one byte and what it keeps apart, the CRC of a
sequence, the three commands. -/

namespace Sys2Proof

namespace Machine

/-! ### One shift (41_crc.md R180) -/

/-- A shift by its low bit, as R180 tests it. -/
theorem crcShift_eq_ite (c : Half) :
    crcShift c = if c &&& 1#16 = 1#16 then (c >>> 1) ^^^ 0xA001#16 else c >>> 1 := by
  have hlow : c.getLsbD 0 = true ↔ c &&& 1#16 = 1#16 := by
    rw [BitVec.and_one_eq_setWidth_ofBool_getLsbD]
    cases c.getLsbD 0 <;> decide
  exact if_congr hlow rfl rfl

theorem crcShift_of_low_false {c : Half} (h : c.getLsbD 0 = false) : crcShift c = c >>> 1 :=
  if_neg (ne_true_of_eq_false h)

/-- The polynomial alone sets the top bit, so the top bit records the bit shifted out. -/
theorem crcShift_top (c : Half) : (crcShift c).getLsbD 15 = c.getLsbD 0 := by
  unfold crcShift
  cases h : c.getLsbD 0 <;> simp [Config.crcPoly]

/-- A shift loses nothing: its top bit tells the bit shifted out, and so whether the polynomial was added. -/
theorem crcShift_injective : Function.Injective crcShift := by
  intro c d h
  have hlow : c.getLsbD 0 = d.getLsbD 0 := by rw [← crcShift_top, h, crcShift_top]
  have hhigh : c >>> 1 = d >>> 1 := by
    unfold crcShift at h
    rw [hlow] at h
    split at h
    · exact (BitVec.xor_left_inj _).mp h
    · exact h
  refine BitVec.eq_of_getLsbD_eq fun k _ => ?_
  cases k with
  | zero => exact hlow
  | succ k => simpa [Nat.add_comm] using congrArg (·.getLsbD k) hhigh

/-! ### Several shifts -/

theorem crcShifts_eq_iterate (k : Nat) (c : Half) : crcShifts k c = crcShift^[k] c := by
  induction k generalizing c with
  | zero => rfl
  | succ k ih => exact ih (crcShift c)

theorem crcShifts_injective (k : Nat) : Function.Injective (crcShifts k) := by
  rw [funext (crcShifts_eq_iterate k)]
  exact crcShift_injective.iterate k

/-- As long as only 0s are shifted out, the polynomial is never added. -/
theorem crcShifts_of_low_false {k : Nat} {c : Half} (h : ∀ i < k, c.getLsbD i = false) : crcShifts k c = c >>> k := by
  induction k generalizing c with
  | zero => simp [crcShifts]
  | succ k ih =>
    have hshift : crcShift c = c >>> 1 := crcShift_of_low_false (h 0 k.succ_pos)
    have hlow : ∀ i < k, (c >>> 1).getLsbD i = false := fun i hi => by
      simpa [Nat.add_comm] using h (i + 1) (Nat.succ_lt_succ hi)
    rw [crcShifts, hshift, ih hlow, ← BitVec.shiftRight_add, Nat.add_comm]

/-! ### One byte (41_crc.md R180) -/

/-- The update by a byte keeps different CRCs different. -/
theorem crcStep_left_injective (b : Byte) : Function.Injective (crcStep · b) :=
  fun _ _ h => (BitVec.xor_left_inj _).mp (crcShifts_injective 8 h)

/-- The update of a CRC keeps different bytes different. -/
theorem crcStep_right_injective (c : Half) : Function.Injective (crcStep c) := by
  intro b b' h
  have hwide : b.setWidth 16 = b'.setWidth 16 := (BitVec.xor_right_inj _).mp (crcShifts_injective 8 h)
  simpa using congrArg (BitVec.setWidth 8) hwide

/-- The update by a CRC's own low byte leaves its high byte. -/
theorem crcStep_low_byte (c : Half) : crcStep c (c.extractLsb' 0 8) = (c.extractLsb' 8 8).setWidth 16 := by
  have hlow : ∀ i < 8, (c ^^^ (c.extractLsb' 0 8).setWidth 16).getLsbD i = false := fun i hi => by
    simp [hi, show i < 16 by omega]
  rw [crcStep, crcShifts_of_low_false hlow]
  refine BitVec.eq_of_getLsbD_eq fun i hi => ?_
  by_cases h8 : i < 8
  · simp [h8, hi]
  · simpa [h8, hi] using BitVec.getLsbD_of_ge c (8 + i) (by omega)

/-- A CRC of one byte is cleared by that byte. -/
theorem crcStep_setWidth_self (b : Byte) : crcStep (b.setWidth 16) b = 0#16 := by
  rw [crcStep, BitVec.xor_self, crcShifts_of_low_false fun i _ => BitVec.getLsbD_zero]
  rfl

/-! ### A sequence of bytes (41_crc.md R181, R185) -/

/-- A CRC continued over the same bytes keeps different CRCs different. -/
theorem crcFold_injective (bytes : List Byte) : Function.Injective (crcFold · bytes) := by
  induction bytes with
  | nil => exact fun _ _ h => h
  | cons b bytes ih => exact ih.comp (crcStep_left_injective b)

theorem crc16_append (as bs : List Byte) : crc16 (as ++ bs) = crcFold (crc16 as) bs :=
  crcFold_append _ as bs

/-- A CRC continued over its own two bytes, low byte first, is 0. -/
theorem crcFold_own_bytes (c : Half) : crcFold c [c.extractLsb' 0 8, c.extractLsb' 8 8] = 0#16 := by
  rw [crcFold_cons, crcFold_cons, crcFold_nil, crcStep_low_byte, crcStep_setWidth_self]

/-- CRCs of sequences that differ in one byte differ. -/
theorem crc16_ne_of_byte_ne (before after : List Byte) {b b' : Byte} (h : b ≠ b') :
    crc16 (before ++ b :: after) ≠ crc16 (before ++ b' :: after) := by
  simp only [crc16_append, crcFold_cons]
  exact (crcFold_injective after).ne ((crcStep_right_injective _).ne h)

/-! ### The commands (41_crc.md R182..R184) -/

theorem exec_crcInit (s : State) : exec .crcInit s = .next { s with crc := Config.crcInit } := rfl

theorem exec_crcByte (b : Byte) (s : State) : exec (.crcByte b) s = .next { s with crc := crcStep s.crc b } := rfl

/-- CRC_TXBUF of a count that TXBUF holds continues the CRC. -/
theorem exec_crcTxbuf_of_le {n : Nat} (h : n ≤ 260) (s : State) :
    exec (.crcTxbuf n) s = .next { s with crc := crcFold s.crc (s.txBytes n) } :=
  if_neg (Nat.not_lt.mpr h)

/-- CRC_TXBUF of a larger count is rejected. -/
theorem exec_crcTxbuf_of_lt {n : Nat} (h : 260 < n) (s : State) :
    exec (.crcTxbuf n) s = .next (s.rejectCommand 0x03#8 .badLength) :=
  if_pos h

/-! ### Runs of commands (40_control.md R170) -/

/-- The event that issues a well-formed command is the command, the bus having answered the write. -/
theorem performEvent_commandEvent {i : Instr} (hwf : i.WellFormed = true) (s : State) :
    performEvent (commandEvent (encode i)) s = exec i (s.answer .written) :=
  issueCommand_of_decode (decode_encode hwf) _

/-- A run of commands goes on from the state its first command leaves. -/
theorem runEvents_commandEvents_cons {i : Instr} {s t : State} (hwf : i.WellFormed = true) (is : List Instr)
    (h : exec i (s.answer .written) = .next t) :
    runEvents (commandEvents (i :: is)) s = runEvents (commandEvents is) t :=
  runEvents_cons _ ((performEvent_commandEvent hwf s).trans h)

/-- One CRC_BYTE per byte continues the CRC over the bytes (41_crc.md R183, R185). -/
theorem runEvents_crcBytes (bytes : List Byte) (s : State) :
    runEvents (commandEvents (bytes.map .crcByte)) (s.answer .written) =
      .next { s.answer .written with crc := crcFold s.crc bytes } := by
  induction bytes generalizing s with
  | nil => exact runEvents_nil _
  | cons b bytes ih =>
    calc runEvents (commandEvents (.crcByte b :: bytes.map .crcByte)) (s.answer .written)
      _ = runEvents (commandEvents (bytes.map .crcByte))
            (({ s with crc := crcStep s.crc b } : State).answer .written) :=
        runEvents_commandEvents_cons rfl _ (exec_crcByte b _)
      _ = _ := ih _

end Machine

open Machine

/-- Settles O15: a shift tests the low bit, and eight shifts in a row are its eighth iterate. -/
theorem crcStepIsEightShifts : Obligations.CrcStepIsEightShifts := by
  refine ⟨fun c b => ?_, by decide⟩
  rw [← funext crcShift_eq_ite]
  exact crcShifts_eq_iterate 8 _

/-- Settles O16: the commands' equations, and their rows of the opcode map for the words and the reserved bits. -/
theorem crcCommandResults : Obligations.CrcCommandResults :=
  ⟨exec_crcInit, exec_crcByte, fun _ s h => exec_crcTxbuf_of_le h s, fun _ s h => exec_crcTxbuf_of_lt h s,
    decode_encode (i := .crcInit) rfl, fun b => decode_encode (i := .crcByte b) rfl,
    fun n => (decode_append n 0#8 0x03#8).trans (if_pos rfl),
    reservedExactlyWhen_of_mem_opcodeMap (row := ⟨0x01#8, 0xFFFFFFFF#32, fun _ => .crcInit⟩) (by simp [opcodeMap])
      (by decide) (by decide),
    reservedExactlyWhen_of_mem_opcodeMap (row := ⟨0x02#8, 0xFFFF00FF#32, fun w => .crcByte (a8Field w)⟩)
      (by simp [opcodeMap]) (by decide) (by decide),
    reservedExactlyWhen_of_mem_opcodeMap (row := ⟨0x03#8, 0x0000FFFF#32, fun w => .crcTxbuf (a16Field w).toNat⟩)
      (by simp [opcodeMap]) (by decide) (by decide)⟩

/-- Settles O17: the run by induction on the bytes; the residue because a CRC's own bytes shift out as 0s; the change of
a byte because every update is injective in the CRC and in the byte. -/
theorem crcOfAByteSequence : Obligations.CrcOfAByteSequence := by
  refine ⟨fun bytes s => ?_, crc16_append, fun bytes => ?_, fun before after _ _ => crc16_ne_of_byte_ne before after⟩
  · rw [runEvents_commandEvents_cons rfl _ (exec_crcInit _)]
    exact runEvents_crcBytes bytes { s with crc := Config.crcInit }
  · rw [crc16_append, crcFold_own_bytes]

end Sys2Proof

/-! Proofs of the statements on the codec (42_codec.md): the commands ENCODE, TX_SEND and DECODE, the takes of the sink,
the guard, and the two ways by which a frame becomes COMPLETE. -/

namespace Sys2Proof

namespace Machine

/-! ### ENCODE and TX_SEND (42_codec.md R200, R202) -/

/-- ENCODE of a payload within the limit appends the CRC. -/
theorem exec_encode_of_le {s : State} {len : Nat} (hbusy : s.tx.busy = false) (hlen : len ≤ 253) :
    exec (.encode len) s = .next (s.appendCrc len) :=
  (if_neg (by simp [hbusy])).trans (if_neg (Nat.not_lt.mpr hlen))

/-- ENCODE is rejected while a transmission runs. -/
theorem exec_encode_of_busy {s : State} (hbusy : s.tx.busy = true) (len : Nat) :
    exec (.encode len) s = .next (s.rejectCommand 0x10#8 .txBusy) :=
  if_pos hbusy

/-- ENCODE of a payload above the limit is rejected. -/
theorem exec_encode_of_lt {s : State} {len : Nat} (hbusy : s.tx.busy = false) (hlen : 253 < len) :
    exec (.encode len) s = .next (s.rejectCommand 0x10#8 .badLength) :=
  (if_neg (by simp [hbusy])).trans (if_pos hlen)

/-- A byte after ENCODE: the CRC in the two bytes behind the payload, low byte first, every other byte as before. -/
theorem State.byteAt_appendCrc (s : State) (len a : Nat) :
    (s.appendCrc len).byteAt a =
      if a = 0x400 + (len + 3) then (crc16 (s.txBytes (len + 2))).extractLsb' 8 8
      else if a = 0x400 + (len + 2) then (crc16 (s.txBytes (len + 2))).extractLsb' 0 8
      else s.byteAt a := by
  refine (State.byteAt_setByte _ _ _ _).trans ?_
  rw [State.byteAt_setByte]
  rfl

/-- `TXBUF[k]` after ENCODE: payload, CRC low byte, CRC high byte. -/
theorem State.txByte_appendCrc (s : State) (len k : Nat) :
    (s.appendCrc len).txByte k =
      if k = len + 3 then (crc16 (s.txBytes (len + 2))).extractLsb' 8 8
      else if k = len + 2 then (crc16 (s.txBytes (len + 2))).extractLsb' 0 8
      else s.txByte k := by
  have haddr : ∀ j, txAddr k = 0x400 + j ↔ k = j := fun j => Nat.add_left_cancel_iff
  exact (s.byteAt_appendCrc len (txAddr k)).trans
    (if_congr (haddr _) rfl (if_congr (haddr _) rfl rfl))

/-- ENCODE writes TXBUF, TX_LEN, TX_POS and CRC alone. -/
theorem State.appendCrc_frame (s : State) (len : Nat) :
    s.appendCrc len =
      { s with
        mem := (s.appendCrc len).mem, tx := { s.tx with len := BitVec.ofNat 9 (len + 4), pos := 0#9 },
        crc := crc16 (s.txBytes (len + 2)) } := rfl

/-- TX_SEND of a frame, with no transmission running, starts one at index 0. -/
theorem exec_txSend_of_len_ne {s : State} (hbusy : s.tx.busy = false) (hlen : s.tx.len ≠ 0#9) :
    exec .txSend s = .next { s with tx := { s.tx with pos := 0#9, busy := true } } :=
  (if_neg (by simp [hbusy])).trans (if_neg hlen)

/-- TX_SEND is rejected while a transmission runs. -/
theorem exec_txSend_of_busy {s : State} (hbusy : s.tx.busy = true) :
    exec .txSend s = .next (s.rejectCommand 0x11#8 .txBusy) :=
  if_pos hbusy

/-- TX_SEND is rejected when no frame is there. -/
theorem exec_txSend_of_empty {s : State} (hbusy : s.tx.busy = false) (hlen : s.tx.len = 0#9) :
    exec .txSend s = .next (s.rejectCommand 0x11#8 .txEmpty) :=
  (if_neg (by simp [hbusy])).trans (if_pos hlen)

/-! ### Takes (42_codec.md R203, R204) -/

/-- A transmission of the frame in TXBUF after `k` takes: TX_POS is `k` and the first `k` bytes are on the line. -/
def State.sent (s : State) (k : Nat) : State :=
  { s with tx := { s.tx with pos := BitVec.ofNat 9 k, busy := true }, txLine := s.txLine ++ s.txBytes k }

/-- Nothing taken: the transmission has just started (42_codec.md R202). -/
theorem State.sent_zero (s : State) : s.sent 0 = { s with tx := { s.tx with pos := 0#9, busy := true } } := by
  simp [State.sent, State.txBytes]

/-- A byte is offered exactly while a transmission runs and the guard is down (42_codec.md R205). -/
theorem State.txValid_iff (s : State) : s.txValid = true ↔ s.tx.busy = true ∧ s.guardCnt = 0#16 := by
  simp [State.txValid]

/-- A take of a byte that is not the frame's last. -/
theorem txAcceptEvent_of_lt {s : State} (hvalid : s.txValid = true) (hpos : s.tx.pos.toNat + 1 < s.tx.len.toNat) :
    txAcceptEvent s =
      .next { s with
        tx := { s.tx with pos := s.tx.pos + 1#9 }, txLine := s.txLine ++ [s.txByte s.tx.pos.toNat] } := by
  have hlen := s.tx.len.isLt
  have hnat : (s.tx.pos + 1#9).toNat = s.tx.pos.toNat + 1 := toNat_len_succ (by omega)
  have hne : s.tx.pos + 1#9 ≠ s.tx.len := fun h => by
    rw [h] at hnat
    omega
  exact (if_pos hvalid).trans (congrArg _ (if_neg hne))

/-- A take of the frame's last byte ends the transmission. -/
theorem txAcceptEvent_of_last {s : State} (hvalid : s.txValid = true) (hpos : s.tx.pos.toNat + 1 = s.tx.len.toNat) :
    txAcceptEvent s =
      .next ({ s with
        tx := { s.tx with pos := s.tx.len }
        txLine := s.txLine ++ [s.txByte s.tx.pos.toNat] } : State).endTransmission := by
  have hlen := s.tx.len.isLt
  have hnat : (s.tx.pos + 1#9).toNat = s.tx.pos.toNat + 1 := toNat_len_succ (by omega)
  have heq : s.tx.pos + 1#9 = s.tx.len := BitVec.eq_of_toNat_eq (hnat.trans hpos)
  rw [← heq]
  exact (if_pos hvalid).trans (congrArg _ (if_pos heq))

/-- A take that is not offered is the model's fault (log 6). -/
theorem txAcceptEvent_of_not_valid {s : State} (h : s.txValid = false) :
    txAcceptEvent s = .fault .txAcceptNotEnabled :=
  if_neg (by simp [h])

/-- The end of a transmission that no XACT waits for. -/
theorem State.endTransmission_of_not_pending {s : State} (h : s.rx.xactPend = false) :
    s.endTransmission = { s with tx := { s.tx with busy := false }, event := s.event ||| 2#4 } :=
  if_neg (by simp [h])

/-- The end of a transmission that an XACT waits for arms the receiver (43_receive.md R230). -/
theorem State.endTransmission_of_pending {s : State} (h : s.rx.xactPend = true) :
    s.endTransmission =
      { s with
        tx := { s.tx with busy := false }, event := s.event ||| 2#4,
        rx := ⟨.waitAddress, s.rx.shape, s.rx.scan, false, 0#9, armExpect s.rx.shape, 0#16, 0#16,
          s.timeoutFor s.rx.scan⟩ } :=
  if_pos h

/-- The length the arm expects, as R230 says it. -/
theorem armExpect_eq_ite (sh : Shape) : armExpect sh = if sh = .b then 8#9 else 0#9 := by
  cases sh <;> rfl

/-- The first `k + 1` bytes of TXBUF are the first `k` and the next one. -/
theorem State.txBytes_succ (s : State) (k : Nat) : s.txBytes (k + 1) = s.txBytes k ++ [s.txByte k] := by
  simp [State.txBytes, List.range_succ]

theorem State.sent_pos_toNat (s : State) {k : Nat} (hk : k < s.tx.len.toNat) : (s.sent k).tx.pos.toNat = k :=
  (BitVec.toNat_ofNat _ _).trans (Nat.mod_eq_of_lt (Nat.lt_trans hk s.tx.len.isLt))

/-- The take of byte `k` puts it on the line behind the bytes before it. -/
theorem State.sent_txLine_succ (s : State) (k : Nat) :
    (s.sent k).txLine ++ [(s.sent k).txByte k] = (s.sent (k + 1)).txLine := by
  show s.txLine ++ s.txBytes k ++ [s.txByte k] = s.txLine ++ s.txBytes (k + 1)
  rw [State.txBytes_succ, List.append_assoc]

theorem State.sent_txValid {s : State} (hguard : s.guardCnt = 0#16) (k : Nat) : (s.sent k).txValid = true :=
  (State.txValid_iff _).mpr ⟨rfl, hguard⟩

/-- A take that is not the last goes on with the transmission. -/
theorem txAcceptEvent_sent {s : State} (hguard : s.guardCnt = 0#16) {k : Nat} (hk : k + 1 < s.tx.len.toNat) :
    txAcceptEvent (s.sent k) = .next (s.sent (k + 1)) := by
  have hpos := s.sent_pos_toNat (k := k) (by omega)
  have hnext : (s.sent k).tx.pos + 1#9 = (s.sent (k + 1)).tx.pos := (BitVec.ofNat_add k 1).symm
  rw [txAcceptEvent_of_lt (State.sent_txValid hguard k) (by rw [hpos]; exact hk), hpos, hnext,
    State.sent_txLine_succ]
  rfl

/-- The last take ends the transmission. -/
theorem txAcceptEvent_sent_last {s : State} (hguard : s.guardCnt = 0#16) {k : Nat} (hk : k + 1 = s.tx.len.toNat) :
    txAcceptEvent (s.sent k) = .next (s.sent (k + 1)).endTransmission := by
  have hpos := s.sent_pos_toNat (k := k) (by omega)
  have hlast : (s.sent k).tx.len = (s.sent (k + 1)).tx.pos := by
    show s.tx.len = BitVec.ofNat 9 (k + 1)
    rw [hk, BitVec.ofNat_toNat, BitVec.setWidth_eq]
  rw [txAcceptEvent_of_last (State.sent_txValid hguard k) (by rw [hpos]; exact hk), hpos, hlast,
    State.sent_txLine_succ]
  rfl

/-- Takes short of the whole frame: the transmission goes on. -/
theorem runEvents_takes {s : State} (hguard : s.guardCnt = 0#16) {k : Nat} (hk : k < s.tx.len.toNat) :
    runEvents (List.replicate k .txAccept) (s.sent 0) = .next (s.sent k) := by
  induction k with
  | zero => exact runEvents_nil _
  | succ k ih =>
    rw [List.replicate_succ', runEvents_append _ (ih (by omega)),
      runEvents_cons (e := .txAccept) [] (txAcceptEvent_sent hguard hk)]
    exact runEvents_nil _

/-- As many takes as the frame has bytes: the transmission has ended. -/
theorem runEvents_takes_all {s : State} (hguard : s.guardCnt = 0#16) (hlen : s.tx.len ≠ 0#9) :
    runEvents (List.replicate s.tx.len.toNat .txAccept) (s.sent 0) = .next (s.sent s.tx.len.toNat).endTransmission := by
  obtain ⟨k, hk⟩ : ∃ k, k + 1 = s.tx.len.toNat :=
    ⟨s.tx.len.toNat - 1, Nat.succ_pred_eq_of_ne_zero fun h => hlen (BitVec.eq_of_toNat_eq h)⟩
  rw [← hk, List.replicate_succ', runEvents_append _ (runEvents_takes hguard (by omega)),
    runEvents_cons (e := .txAccept) [] (txAcceptEvent_sent_last hguard hk)]
  exact runEvents_nil _

/-! ### The guard (42_codec.md R205, 43_receive.md R246) -/

/-- The timeout counter's tick leaves the guard and the transmitter alone: only COMPLETE loads the guard. -/
theorem State.tickTimer_keeps (s : State) : s.tickTimer.guardCnt = s.guardCnt ∧ s.tickTimer.tx = s.tx := by
  rcases State.tickTimer_cases s with ⟨-, h⟩ | ⟨-, -, h⟩ | ⟨-, -, h⟩ <;> rw [h] <;> exact ⟨rfl, rfl⟩

/-- A tick takes one from the guard, if there is one to take, and leaves the transmitter alone. -/
theorem performEvent_tick_guardCnt (s : State) :
    ∃ t : State, performEvent .tick s = .next t ∧ t.guardCnt.toNat = s.guardCnt.toNat - 1 ∧ t.tx = s.tx := by
  obtain ⟨hguard, htx⟩ := s.tickTimer_keeps
  refine ⟨s.tickTimer.tickGuard, rfl, ?_, ?_⟩
  · rw [State.tickGuard_eq, hguard]
    dsimp only
    split
    · simp [*]
    · have hpos : s.guardCnt.toNat ≠ 0 := fun h => ‹¬_› (BitVec.eq_of_toNat_eq h)
      exact BitVec.toNat_sub_of_le (BitVec.le_def.mpr (Nat.pos_of_ne_zero hpos))
  · rw [State.tickGuard_eq]
    exact htx

/-- `k` ticks take `k` from the guard. -/
theorem runEvents_ticks_guardCnt (k : Nat) (s : State) :
    ∃ t : State, runEvents (List.replicate k .tick) s = .next t ∧ t.guardCnt.toNat = s.guardCnt.toNat - k ∧
      t.tx = s.tx := by
  induction k generalizing s with
  | zero => exact ⟨s, runEvents_nil s, rfl, rfl⟩
  | succ k ih =>
    obtain ⟨u, hu, hguard, htx⟩ := performEvent_tick_guardCnt s
    obtain ⟨t, ht, hguard', htx'⟩ := ih u
    exact ⟨t, (runEvents_cons _ hu).trans ht, by omega, htx'.trans htx⟩

/-! ### DECODE (42_codec.md R211) -/

/-- DECODE of a length that RXBUF holds, on a free receiver, checks the frame. -/
theorem exec_decode_of_le {s : State} (sh : Shape) {len : Nat} (hw : s.rx.state.waiting = false)
    (hpend : s.rx.xactPend = false) (hlen : len ≤ 260) : exec (.decode sh len) s = .next (s.decodeFrame sh len) :=
  (if_neg (by simp [State.rxBusy_eq_false.mpr ⟨hw, hpend⟩])).trans (if_neg (Nat.not_lt.mpr hlen))

/-- DECODE of a larger length is rejected. -/
theorem exec_decode_of_lt {s : State} (sh : Shape) {len : Nat} (hw : s.rx.state.waiting = false)
    (hpend : s.rx.xactPend = false) (hlen : 260 < len) :
    exec (.decode sh len) s = .next (s.rejectCommand 0x22#8 .badLength) :=
  (if_neg (by simp [State.rxBusy_eq_false.mpr ⟨hw, hpend⟩])).trans (if_pos hlen)

/-- DECODE is rejected while the receiver is not free. -/
theorem exec_decode_of_busy {s : State} (sh : Shape) (len : Nat)
    (h : s.rx.state.waiting = true ∨ s.rx.xactPend = true) :
    exec (.decode sh len) s = .next (s.rejectCommand 0x22#8 .rxBusy) :=
  if_pos (State.rxBusy_eq_true.mpr h)

/-- What DECODE leaves in the receive unit: the verdict of the frame check beside its operands. -/
theorem State.decodeFrame_rx (s : State) (sh : Shape) (len : Nat) :
    (s.decodeFrame sh len).rx =
      { s.rx with
        shape := sh, len := BitVec.ofNat 9 len, state := (s.frameCheck sh len).state,
        expect := (s.frameCheck sh len).expect, crcCalc := (s.frameCheck sh len).crcCalc,
        crcRecv := (s.frameCheck sh len).crcRecv } := rfl

/-- DECODE writes the receive unit and RX_DONE alone. -/
theorem State.decodeFrame_frame (s : State) (sh : Shape) (len : Nat) :
    s.decodeFrame sh len = { s with rx := (s.decodeFrame sh len).rx, event := s.event ||| 1#4 } := rfl

/-- DECODE's A8 is 0 above its shape (30_encoding.md R121). -/
theorem append_shapeBit (h : Half) (sh : Shape) :
    (h ++ 0#7 ++ shapeBit sh : BitVec 24) = h ++ shapeScanArg sh false := by
  rw [BitVec.append_assoc]
  cases sh <;> rfl

/-- A DECODE that passes its checks found the receiver free and a length that RXBUF holds (60_exceptions.md R360). -/
theorem commandError_decode_eq_none {s : State} {sh : Shape} {len : Nat} (h : commandError (.decode sh len) s = none) :
    s.rx.state.waiting = false ∧ s.rx.xactPend = false ∧ len ≤ 260 := by
  simp only [commandError] at h
  split at h
  · cases h
  · obtain ⟨hw, hpend⟩ := not_or.mp ‹¬(s.rx.state.waiting = true ∨ s.rx.xactPend = true)›
    split at h
    · cases h
    · exact ⟨eq_false_of_ne_true hw, eq_false_of_ne_true hpend, Nat.le_of_not_lt ‹_›⟩

/-! ### The round trip (42_codec.md R213) -/

/-- The two halves of a CRC, low byte first, are the CRC (20_memory.md R101). -/
theorem crcOfBytes_halves (c : Half) : crcOfBytes (c.extractLsb' 0 8) (c.extractLsb' 8 8) = c := by
  refine BitVec.eq_of_getLsbD_eq fun i hi => ?_
  show BitVec.getLsbD (w := 8 + 8) (c.extractLsb' 8 8 ++ c.extractLsb' 0 8) i = _
  simp only [BitVec.getLsbD_append, BitVec.getLsbD_extractLsb']
  split
  · simp [*]
  · rw [Nat.add_sub_of_le (by omega)]
    simp [show i - 8 < 8 by omega]

/-- The bytes that ENCODE built, in RXBUF: payload and CRC are those of TXBUF. -/
theorem State.rxBytes_of_encoded {s u : State} {len : Nat}
    (hcopy : ∀ k < len + 4, u.rxByte k = (s.appendCrc len).txByte k) :
    (∀ k < len + 2, u.rxByte k = s.txByte k) ∧ u.rxBytes (len + 2) = s.txBytes (len + 2) ∧
      carriedCrc (u.rxBytes (len + 4)) = crc16 (s.txBytes (len + 2)) := by
  have hpayload : ∀ k < len + 2, u.rxByte k = s.txByte k := fun k hk => by
    rw [hcopy k (by omega), State.txByte_appendCrc, if_neg (by omega), if_neg (by omega)]
  have hlo : u.rxByte (len + 2) = (crc16 (s.txBytes (len + 2))).extractLsb' 0 8 := by
    rw [hcopy _ (by omega), State.txByte_appendCrc, if_neg (by omega), if_pos rfl]
  have hhi : u.rxByte (len + 3) = (crc16 (s.txBytes (len + 2))).extractLsb' 8 8 := by
    rw [hcopy _ (by omega), State.txByte_appendCrc, if_pos rfl]
  refine ⟨hpayload, List.map_congr_left fun k hk => hpayload k (List.mem_range.mp hk), ?_⟩
  rw [carriedCrc_rxBytes u (by omega), show len + 4 - 2 = len + 2 by omega, show len + 4 - 1 = len + 3 by omega, hlo,
    hhi, crcOfBytes_halves]

/-- An encoded frame fits the shape when its payload does: 4 bytes for shape B, a byte count and as many bytes for
shape A (42_codec.md R213). Without payload the frame has 4 bytes, fewer than any byte count gives it. -/
theorem fitsShape_of_encoded {s u : State} {len : Nat} (sh : Shape) (hlen : len ≤ 253)
    (hpayload : ∀ k < len + 2, u.rxByte k = s.txByte k) :
    fitsShape sh (u.rxBytes (len + 4)) ↔
      (sh = .b ∧ len = 4) ∨ (sh = .a ∧ 1 ≤ len ∧ (s.txByte 2).toNat = len - 1) := by
  cases sh with
  | a =>
    simp only [fitsShape_a_rxBytes, reduceCtorEq, false_and, true_and, false_or]
    rcases Nat.eq_zero_or_pos len with hzero | hpos
    · omega
    · rw [hpayload 2 (by omega)]
      omega
  | b =>
    simp only [fitsShape_b_rxBytes, reduceCtorEq, false_and, true_and, or_false]
    omega

/-! ### A frame that was checked (42_codec.md R214) -/

/-- The frame in RXBUF has the length its shape gives it and carries the CRC computed over it. -/
def State.FrameVerified (s : State) : Prop :=
  s.rx.len = s.rx.expect ∧ fitsShape s.rx.shape (s.rxBytes s.rx.len.toNat) ∧
    computedCrc (s.rxBytes s.rx.len.toNat) = carriedCrc (s.rxBytes s.rx.len.toNat)

/-- A frame check answers COMPLETE for nothing but a frame that fits its shape and carries its CRC (42_codec.md
R210). -/
theorem State.frameCheck_complete {s : State} {sh : Shape} {len : Nat} (h : (s.frameCheck sh len).state = .complete) :
    (s.frameCheck sh len).expect = BitVec.ofNat 9 len ∧ fitsShape sh (s.rxBytes len) ∧
      computedCrc (s.rxBytes len) = carriedCrc (s.rxBytes len) := by
  by_cases hfit : fitsShape sh (s.rxBytes len)
  · rw [State.frameCheck_of_fits hfit] at h ⊢
    refine ⟨rfl, hfit, ?_⟩
    by_contra hne
    exact nomatch (if_neg hne).symm.trans h
  · obtain ⟨hst, -⟩ := State.frameCheck_of_not_fits hfit
    exact nomatch hst.symm.trans h

/-- What a frame check over the whole length in RX_LEN calls COMPLETE is verified. -/
theorem State.FrameVerified.of_frameCheck {s t : State} {sh : Shape} {len : Nat}
    (h : (s.frameCheck sh len).state = .complete) (hlen : t.rx.len = BitVec.ofNat 9 len) (hlt : len < 512)
    (hshape : t.rx.shape = sh) (hexp : t.rx.expect = (s.frameCheck sh len).expect)
    (hbytes : t.rxBytes len = s.rxBytes len) : t.FrameVerified := by
  obtain ⟨hexp', hfit, hcrc⟩ := State.frameCheck_complete h
  have hnat : t.rx.len.toNat = len := by
    rw [hlen, BitVec.toNat_ofNat]
    exact Nat.mod_eq_of_lt hlt
  rw [← hbytes] at hfit hcrc
  rw [State.FrameVerified, hnat, hshape]
  exact ⟨by rw [hlen, hexp, hexp'], hfit, hcrc⟩

/-- DECODE calls no other frame COMPLETE (42_codec.md R211). -/
theorem State.decodeFrame_verified {s : State} {sh : Shape} {len : Nat} (hlen : len ≤ 260)
    (h : (s.decodeFrame sh len).rx.state = .complete) : (s.decodeFrame sh len).FrameVerified :=
  .of_frameCheck (s := s) h rfl (by omega) rfl rfl rfl

/-- The last byte of a receive makes no other frame COMPLETE (43_receive.md R238). -/
theorem State.afterStored_verified {s : State} (hw : s.rx.state.waiting = true)
    (h : s.afterStored.rx.state = .complete) : s.afterStored.FrameVerified := by
  rcases State.afterStored_cases s hw with
    ⟨-, heq⟩ | ⟨hst, -, heq⟩ | ⟨-, -, -, heq⟩ | ⟨-, -, -, heq⟩ | ⟨hst, -, heq⟩ | ⟨-, -, heq⟩ <;> rw [heq] at h ⊢
  · -- the address
    dsimp only at h
    split at h <;> cases h
  · -- the function of a shape A frame
    exact nomatch hst.symm.trans h
  · -- a byte count above the limit
    exact nomatch h
  · -- a byte count
    exact nomatch h
  · -- a byte of the body, not the last
    exact nomatch hst.symm.trans h
  · -- the last byte
    exact .of_frameCheck (s := s) h (by simp) s.rx.len.isLt rfl rfl rfl

/-- A command that makes a frame COMPLETE is a DECODE that verified it. -/
theorem exec_verified {i : Instr} {s t : State} (h : exec i s = .next t) (hs : s.rx.state ≠ .complete)
    (ht : t.rx.state = .complete) : t.FrameVerified := by
  cases i with
  | nop | crcInit | crcByte | medInit | medPush =>
    cases h
    exact absurd ht hs
  | crcTxbuf => rcases execCrcTxbuf_cases h with ⟨-, rfl⟩ | ⟨-, rfl⟩ <;> exact absurd ht hs
  | encode => rcases execEncode_cases h with ⟨-, rfl⟩ | ⟨-, -, rfl⟩ | ⟨-, -, rfl⟩ <;> exact absurd ht hs
  | txSend => rcases execTxSend_cases h with ⟨-, rfl⟩ | ⟨-, -, rfl⟩ | ⟨-, -, rfl⟩ <;> exact absurd ht hs
  | maInit => rcases execMaInit_cases h with ⟨-, rfl⟩ | ⟨-, rfl⟩ <;> exact absurd ht hs
  | maPush => rcases execMaPush_cases h with ⟨-, rfl⟩ | ⟨-, rfl⟩ <;> exact absurd ht hs
  | xact =>
    rcases execXact_cases h with ⟨-, rfl⟩ | ⟨-, -, rfl⟩ | ⟨-, -, -, rfl⟩ | ⟨-, -, -, rfl⟩
    · exact absurd ht hs
    · exact absurd ht hs
    · exact absurd ht hs
    · exact nomatch ht
  | rxStart =>
    rcases execRxStart_cases h with ⟨-, rfl⟩ | ⟨-, rfl⟩
    · exact absurd ht hs
    · exact nomatch ht
  | rxAbort =>
    rcases execRxAbort_cases h with ⟨-, rfl⟩ | ⟨-, rfl⟩
    · exact nomatch ht
    · exact absurd ht hs
  | decode =>
    rcases execDecode_cases h with ⟨-, rfl⟩ | ⟨-, -, rfl⟩ | ⟨-, hlen, rfl⟩
    · exact absurd ht hs
    · exact absurd ht hs
    · exact State.decodeFrame_verified hlen ht
  | softReset =>
    cases h
    exact nomatch ht

/-- The end of a transmission completes no frame: it leaves the receiver alone or arms it (42_codec.md R204). -/
theorem State.endTransmission_rx_state (s : State) :
    s.endTransmission.rx.state = s.rx.state ∨ s.endTransmission.rx.state = .waitAddress := by
  rcases State.endTransmission_cases s with ⟨-, h⟩ | ⟨-, h⟩ <;> rw [h]
  · exact .inl rfl
  · exact .inr rfl

/-- A tick completes no frame: it leaves the receive state or ends it in TIMEOUT (43_receive.md R242). -/
theorem State.tickTimer_rx_state (s : State) :
    s.tickTimer.rx.state = s.rx.state ∨ s.tickTimer.rx.state = .timeout := by
  rcases State.tickTimer_cases s with ⟨-, h⟩ | ⟨-, -, h⟩ | ⟨-, -, h⟩ <;> rw [h]
  · exact .inl rfl
  · exact .inr rfl
  · exact .inl rfl

@[simp] theorem State.tickGuard_rx (s : State) : s.tickGuard.rx = s.rx := by
  rw [State.tickGuard_eq]

/-- An event that makes a frame COMPLETE is the frame's last byte or a DECODE, and verified the frame. -/
theorem performEvent_verified {e : AgentEvent} {s t : State} (h : performEvent e s = .next t)
    (hs : s.rx.state ≠ .complete) (ht : t.rx.state = .complete) : t.FrameVerified := by
  cases e with
  | hostWrite a d =>
    rcases hostWriteEvent_cases h with ⟨-, rfl⟩ | ⟨-, h⟩ | ⟨r, -, -, rfl⟩
    · exact absurd ht hs
    · rcases issueCommand_cases h with ⟨i, -, h⟩ | ⟨c, -, rfl⟩
      · exact exec_verified h hs ht
      · exact absurd ht hs
    · exact absurd ((congrArg RxUnit.state (s.writeReg_rx r d)).symm.trans ht) hs
  | hostRead a =>
    obtain ⟨r, rfl⟩ := hostReadEvent_cases h
    exact absurd ht hs
  | rxByte b =>
    rcases rxByteEvent_cases h with ⟨-, rfl⟩ | ⟨hw, -, rfl⟩
    · exact absurd ht hs
    · exact State.afterStored_verified hw ht
  | txAccept =>
    obtain ⟨-, ⟨-, rfl⟩ | ⟨-, rfl⟩⟩ := txAcceptEvent_cases h
    · rcases State.endTransmission_rx_state _ with heq | heq
      · exact absurd (heq.symm.trans ht) hs
      · exact nomatch heq.symm.trans ht
    · exact absurd ht hs
  | tick =>
    cases h
    rw [State.tickGuard_rx] at ht
    rcases State.tickTimer_rx_state s with heq | heq
    · exact absurd (heq.symm.trans ht) hs
    · exact nomatch heq.symm.trans ht
  | reset =>
    cases h
    exact nomatch ht

end Machine

open Machine

/-! ### Steps that stop (42_codec.md R204, 43_receive.md R235) -/

/-- RX_LEN of a waiting receiver is an index of RXBUF (43_receive.md R235). -/
theorem ReceiverInv.len_lt_of_waiting {s : State} (hs : ReceiverInv s) (hw : s.rx.state.waiting = true) :
    s.rx.len.toNat < 260 := by
  rcases RxState.waiting_cases hw with hst | hst | hst
  · obtain ⟨hlen, -⟩ := hs.address hst
    simp [hlen]
  · obtain ⟨-, hlen | hlen, -⟩ := hs.header hst <;> simp [hlen]
  · obtain ⟨hlen, -⟩ := hs.body hst
    rcases hs.expectRange with hexp | hexp
    · simp [hexp] at hlen
    · omega

/-- In a run every event but a take goes on, and a take that is offered does. -/
theorem ReceiverInv.performEvent_next {e : AgentEvent} {s : State} (hs : ReceiverInv s)
    (he : e = .txAccept → s.txValid = true) : ∃ t, performEvent e s = .next t := by
  cases e with
  | hostWrite a d =>
    simp only [performEvent, hostWriteEvent]
    split
    · exact ⟨_, rfl⟩
    · exact issueCommand_next _ _
    · exact ⟨_, rfl⟩
  | hostRead a =>
    simp only [performEvent, hostReadEvent]
    split <;> exact ⟨_, rfl⟩
  | rxByte b =>
    cases hw : s.rx.state.waiting with
    | false => exact ⟨_, if_neg (by simp [hw])⟩
    | true => exact ⟨_, (if_pos hw).trans (if_pos (hs.len_lt_of_waiting hw))⟩
  | txAccept => exact ⟨_, if_pos (he rfl)⟩
  | tick | reset => exact ⟨_, rfl⟩

/-! ### The statements -/

/-- Settles O18: the two bytes set, the rest of the state by `State.appendCrc_frame`, the row of the opcode map. -/
theorem encodeAppendsTheCrc : Obligations.EncodeAppendsTheCrc := by
  refine ⟨fun s len hbusy hlen => ⟨_, exec_encode_of_le hbusy hlen, ?_, ?_, fun a hlo hhi => ?_, ?_⟩,
    fun s len hbusy => exec_encode_of_busy hbusy len, fun s len hbusy hlen => exec_encode_of_lt hbusy hlen,
    fun len => (decode_append len 0#8 0x10#8).trans (if_pos rfl),
    reservedExactlyWhen_of_mem_opcodeMap (row := ⟨0x10#8, 0x0000FFFF#32, fun w => .encode (a16Field w).toNat⟩)
      (by simp [opcodeMap]) (by decide) (by decide)⟩
  · rw [State.byteAt_appendCrc, if_neg (by omega), if_pos rfl]
  · rw [State.byteAt_appendCrc, if_pos rfl]
  · rw [State.byteAt_appendCrc, if_neg hhi, if_neg hlo]
  · rw [← hbusy]
    exact s.appendCrc_frame len

/-- Settles O19: the three outcomes of the two checks, and the row of the opcode map. -/
theorem txSendStartsTheTransmission : Obligations.TxSendStartsTheTransmission :=
  ⟨fun _ => exec_txSend_of_len_ne, fun _ => exec_txSend_of_busy, fun _ => exec_txSend_of_empty,
    decode_encode (i := .txSend) rfl,
    reservedExactlyWhen_of_mem_opcodeMap (row := ⟨0x11#8, 0xFFFFFFFF#32, fun _ => .txSend⟩) (by simp [opcodeMap])
      (by decide) (by decide)⟩

/-- Settles O20: the run by induction on the takes; a single take by whether it is the last one, and the end of the
transmission by whether an XACT waits for it. -/
theorem transmissionDeliversTheFrame : Obligations.TransmissionDeliversTheFrame := by
  refine ⟨fun s hbusy hlen hpend hguard => ?_, fun s rest _ hbusy hguard hpending => ?_⟩
  · have hall : BitVec.ofNat 9 s.tx.len.toNat = s.tx.len := by simp
    have hsend : performEvent (commandEvent (encode .txSend)) s = .next ((s.answer .written).sent 0) := by
      rw [performEvent_commandEvent rfl, State.sent_zero]
      exact exec_txSend_of_len_ne hbusy hlen
    calc runEvents (commandEvents [.txSend] ++ List.replicate s.tx.len.toNat .txAccept) s
      _ = runEvents (List.replicate s.tx.len.toNat .txAccept) ((s.answer .written).sent 0) := runEvents_cons _ hsend
      _ = .next ((s.answer .written).sent s.tx.len.toNat).endTransmission :=
        runEvents_takes_all (s := s.answer .written) hguard hlen
      _ = _ := by
        rw [State.endTransmission_of_not_pending (s := (s.answer .written).sent _) hpend]
        simp only [State.sent, State.answer_tx, hall]
        rfl
  · have hvalid : ({ s with pending := rest } : State).txValid = true := (State.txValid_iff _).mpr ⟨hbusy, hguard⟩
    rw [step_cons hpending]
    refine ⟨fun hpos => ?_, fun hpos hpend => ?_, fun hpos hpend => ?_⟩
    · rw [← hbusy]
      exact txAcceptEvent_of_lt hvalid hpos
    · refine (txAcceptEvent_of_last hvalid hpos).trans (congrArg _ (State.endTransmission_of_not_pending ?_))
      exact hpend
    · rw [← armExpect_eq_ite]
      refine (txAcceptEvent_of_last hvalid hpos).trans (congrArg _ (State.endTransmission_of_pending ?_))
      exact hpend

/-- Settles O22: a guard that is up offers nothing; the ticks take it down one by one. -/
theorem guardHoldsTheTransmitter : Obligations.GuardHoldsTheTransmitter := by
  constructor
  · intro s rest hguard hpending
    have hvalid : s.txValid = false := by simp [State.txValid, hguard]
    exact ⟨hvalid, (step_cons hpending).trans (txAcceptEvent_of_not_valid hvalid)⟩
  · intro s k hbusy hk
    obtain ⟨t, ht, hguard, htx⟩ := runEvents_ticks_guardCnt k s
    refine ⟨t, ht, hguard, htx, ?_⟩
    rw [State.txValid_iff, htx, ← BitVec.toNat_inj, hguard]
    simp only [hbusy, true_and]
    show s.guardCnt.toNat - k = 0 ↔ _
    omega

/-- Settles O23: the frame check's outcome where the bytes fit and where they do not, and the row of the opcode map. -/
theorem decodeChecksTheFrame : Obligations.DecodeChecksTheFrame := by
  refine ⟨fun s sh len hw hpend hlen =>
      ⟨_, exec_decode_of_le sh hw hpend hlen, s.decodeFrame_frame sh len, rfl, rfl, rfl, hpend, rfl,
        fun hfit => ?_, State.frameCheck_of_not_fits⟩,
    fun _ sh len hbusy => exec_decode_of_busy sh len hbusy,
    fun _ sh _ hw hpend hlen => exec_decode_of_lt sh hw hpend hlen,
    fun sh len => ?_,
    reservedExactlyWhen_of_mem_opcodeMap
      (row := ⟨0x22#8, 0x0000FEFF#32, fun w => .decode (shapeField w) (a16Field w).toNat⟩)
      (by simp [opcodeMap]) (by decide) (by decide)⟩
  · rw [State.decodeFrame_rx, State.frameCheck_of_fits hfit]
    exact ⟨rfl, rfl, rfl, fun hcrc => if_pos hcrc, fun hcrc => if_neg hcrc⟩
  · rw [append_shapeBit, decode_append]
    exact (if_pos (shapeScanArg_false_reserved sh)).trans (by rw [shapeScanArg_shape])

/-- Settles O24: the copied bytes carry the CRC that ENCODE computed over them, and fit the shape when the payload
does. -/
theorem decodeOfEncodedFrame : Obligations.DecodeOfEncodedFrame := by
  intro s t u v sh len hbusy hlen hencode hw hpend hcopy hdecode
  cases (exec_encode_of_le hbusy hlen).symm.trans hencode
  cases (exec_decode_of_le sh hw hpend (by omega)).symm.trans hdecode
  obtain ⟨hpayload, hbytes, hcarried⟩ := State.rxBytes_of_encoded hcopy
  have hcomputed : computedCrc (u.rxBytes (len + 4)) = crc16 (s.txBytes (len + 2)) := by
    rw [computedCrc_rxBytes, show len + 4 - 2 = len + 2 by omega, hbytes]
  rw [← fitsShape_of_encoded sh hlen hpayload]
  refine ⟨fun hfit => ?_, fun hfit => ?_⟩
  · rw [State.decodeFrame_rx, State.frameCheck_of_fits hfit, hcomputed, hcarried]
    exact ⟨if_pos rfl, rfl, hpayload, rfl, rfl⟩
  · obtain ⟨hstate, -⟩ := State.frameCheck_of_not_fits hfit
    exact hstate

/-- Settles O25: the last byte of a receive and DECODE complete a frame by a frame check, and no other event completes
one. -/
theorem noFabricatedFrame : Obligations.NoFabricatedFrame := by
  intro s t e rest hpending hstep ht hnew
  rw [step_cons hpending] at hstep
  rcases hnew with hs | ⟨sh, len, rfl, hlen, haccepted⟩
  · exact performEvent_verified hstep hs ht
  · obtain ⟨hw, hpend, h260⟩ := commandError_decode_eq_none haccepted
    have hdecode := exec_decode_of_le (s := ({ s with pending := rest } : State).answer .written) sh hw hpend h260
    rw [performEvent_commandEvent (i := .decode sh len) (decide_eq_true hlen)] at hstep
    cases hdecode.symm.trans hstep
    exact State.decodeFrame_verified h260 ht

/-- Settles O60: a step performs the next event, and a take that is not offered is the only one that stops. -/
theorem onlyADisabledTakeStops : Obligations.OnlyADisabledTakeStops := by
  intro s hs
  cases hpending : s.pending with
  | nil => exact .inl ⟨s, step_nil hpending⟩
  | cons e rest =>
    rw [step_cons hpending]
    by_cases he : e = .txAccept → s.txValid = true
    · exact .inl ((hs.of_frame (t := { s with pending := rest }) rfl (fun _ => id) fun _ => rfl).performEvent_next he)
    · obtain ⟨rfl, hvalid⟩ := Classical.not_imp.mp he
      have hvalid : s.txValid = false := by simpa using hvalid
      exact .inr ⟨txAcceptEvent_of_not_valid hvalid, hvalid, rest, rfl⟩

end Sys2Proof

/-! Proofs of the statements on the receive unit (43_receive.md): the commands XACT, RX_START and RX_ABORT, what a byte
and a tick do in each receive state, the receive of a frame byte by byte, and how many ticks a receive lasts. -/

namespace Sys2Proof

namespace Machine

/-! ### The commands (43_receive.md R231..R233) -/

/-- The words of XACT and RX_START: A8 is SCAN above SHAPE, and no bit above it is set (30_encoding.md R121). -/
theorem append_scan_shapeBit (sh : Shape) (sc : Bool) :
    (0#22 ++ BitVec.ofBool sc ++ shapeBit sh : BitVec 24) = 0#16 ++ shapeScanArg sh sc := by
  cases sh <;> cases sc <;> rfl

/-- RX_START on a free receiver arms it. -/
theorem exec_rxStart_of_free {s : State} (sh : Shape) (sc : Bool) (hw : s.rx.state.waiting = false)
    (hpend : s.rx.xactPend = false) : exec (.rxStart sh sc) s = .next (s.rxArm sh sc) :=
  if_neg (by simp [State.rxBusy_eq_false.mpr ⟨hw, hpend⟩])

/-- RX_START is rejected while the receiver is not free. -/
theorem exec_rxStart_of_busy {s : State} (sh : Shape) (sc : Bool)
    (h : s.rx.state.waiting = true ∨ s.rx.xactPend = true) :
    exec (.rxStart sh sc) s = .next (s.rejectCommand 0x20#8 .rxBusy) :=
  if_pos (State.rxBusy_eq_true.mpr h)

/-- What an arm leaves in the receive unit, as R230 says it, where no XACT is pending. -/
theorem State.rxArm_of_not_pending {s : State} (sh : Shape) (sc : Bool) (hpend : s.rx.xactPend = false) :
    s.rxArm sh sc =
      { s with
        rx := ⟨.waitAddress, sh, sc, false, 0#9, if sh = .b then 8#9 else 0#9, 0#16, 0#16,
          if sc then s.toScan else s.toNormal⟩ } := by
  rw [← armExpect_eq_ite, ← hpend]
  rfl

/-- The receiver while an accepted XACT sends its frame: idle, the operands noted, the arm pending (43_receive.md
R232). -/
def State.awaitXact (s : State) (sh : Shape) (sc : Bool) : State :=
  { s with rx := { s.rx with state := .idle, shape := sh, scan := sc, xactPend := true } }

/-- XACT of a frame, with transmitter and receiver free, starts the transmission and leaves the arm pending. -/
theorem exec_xact_of_free {s : State} (sh : Shape) (sc : Bool) (hbusy : s.tx.busy = false)
    (hw : s.rx.state.waiting = false) (hpend : s.rx.xactPend = false) (hlen : s.tx.len ≠ 0#9) :
    exec (.xact sh sc) s = .next ((s.awaitXact sh sc).sent 0) := by
  rw [State.sent_zero]
  exact (if_neg (by simp [hbusy])).trans
    ((if_neg (by simp [State.rxBusy_eq_false.mpr ⟨hw, hpend⟩])).trans (if_neg hlen))

/-- XACT is rejected while a transmission runs, before anything else is looked at. -/
theorem exec_xact_of_txBusy {s : State} (sh : Shape) (sc : Bool) (hbusy : s.tx.busy = true) :
    exec (.xact sh sc) s = .next (s.rejectCommand 0x12#8 .txBusy) :=
  if_pos hbusy

/-- XACT is rejected while the receiver is not free. -/
theorem exec_xact_of_rxBusy {s : State} (sh : Shape) (sc : Bool) (hbusy : s.tx.busy = false)
    (h : s.rx.state.waiting = true ∨ s.rx.xactPend = true) :
    exec (.xact sh sc) s = .next (s.rejectCommand 0x12#8 .rxBusy) :=
  (if_neg (by simp [hbusy])).trans (if_pos (State.rxBusy_eq_true.mpr h))

/-- XACT is rejected when no frame is there. -/
theorem exec_xact_of_empty {s : State} (sh : Shape) (sc : Bool) (hbusy : s.tx.busy = false)
    (hw : s.rx.state.waiting = false) (hpend : s.rx.xactPend = false) (hlen : s.tx.len = 0#9) :
    exec (.xact sh sc) s = .next (s.rejectCommand 0x12#8 .txEmpty) :=
  (if_neg (by simp [hbusy])).trans
    ((if_neg (by simp [State.rxBusy_eq_false.mpr ⟨hw, hpend⟩])).trans (if_pos hlen))

/-- RX_ABORT of a waiting receive. -/
theorem exec_rxAbort_of_waiting {s : State} (hw : s.rx.state.waiting = true) :
    exec .rxAbort s = .next { s with rx := { s.rx with state := .idle, timer := 0#16, xactPend := false } } :=
  if_pos hw

/-- RX_ABORT otherwise cancels a pending arm. -/
theorem exec_rxAbort_of_not_waiting {s : State} (hw : s.rx.state.waiting = false) :
    exec .rxAbort s = .next { s with rx := { s.rx with xactPend := false } } :=
  if_neg (by simp [hw])

/-! ### Ticks (43_receive.md R241, R242, R246) -/

/-- The guard counter after a tick, whatever the tick does to the receive. -/
@[simp] theorem State.tickGuard_guardCnt (s : State) :
    s.tickGuard.guardCnt = if s.guardCnt = 0#16 then 0#16 else s.guardCnt - 1#16 := by
  rw [State.tickGuard_eq]
  dsimp only
  split
  · assumption
  · rfl

/-- A tick outside a receive moves the guard alone. -/
theorem performEvent_tick_of_not_waiting {s : State} (hw : s.rx.state.waiting = false) :
    performEvent .tick s = .next { s with guardCnt := s.tickGuard.guardCnt } := by
  rcases State.tickTimer_cases s with ⟨-, h⟩ | ⟨hw', -⟩ | ⟨hw', -⟩
  · show Host.Outcome.next s.tickTimer.tickGuard = _
    rw [h, State.tickGuard_eq]
  · exact nomatch hw.symm.trans hw'
  · exact nomatch hw.symm.trans hw'

/-- The tick that a waiting receive's timeout ends with. -/
theorem performEvent_tick_of_expired {s : State} (hw : s.rx.state.waiting = true) (htimer : s.rx.timer.toNat ≤ 1) :
    performEvent .tick s =
      .next { s with
        guardCnt := s.tickGuard.guardCnt, event := s.event ||| 1#4,
        rx := { s.rx with state := .timeout, timer := 0#16 } } := by
  rcases State.tickTimer_cases s with ⟨hw', -⟩ | ⟨-, -, h⟩ | ⟨-, hlt, -⟩
  · exact nomatch hw.symm.trans hw'
  · show Host.Outcome.next s.tickTimer.tickGuard = _
    rw [h, State.tickGuard_eq, State.tickGuard_eq]
    rfl
  · omega

/-- A tick of a waiting receive that has more than one tick left. -/
theorem performEvent_tick_of_running {s : State} (hw : s.rx.state.waiting = true) (htimer : 1 < s.rx.timer.toNat) :
    performEvent .tick s =
      .next { s with guardCnt := s.tickGuard.guardCnt, rx := { s.rx with timer := s.rx.timer - 1#16 } } := by
  rcases State.tickTimer_cases s with ⟨hw', -⟩ | ⟨-, hle, -⟩ | ⟨-, -, h⟩
  · exact nomatch hw.symm.trans hw'
  · omega
  · show Host.Outcome.next s.tickTimer.tickGuard = _
    rw [h, State.tickGuard_eq, State.tickGuard_eq]

/-- A counter that is not 0 is counted down by one (00_scope.md R13). -/
theorem toNat_half_pred {x : Half} (h : 1 ≤ x.toNat) : (x - 1#16).toNat = x.toNat - 1 :=
  BitVec.toNat_sub_of_le (BitVec.le_def.mpr h)

/-- Ticks outside a receive move the guard alone. -/
theorem runEvents_ticks_of_not_waiting (m : Nat) {s : State} (hw : s.rx.state.waiting = false) :
    ∃ g, runEvents (List.replicate m .tick) s = .next { s with guardCnt := g } := by
  induction m generalizing s with
  | zero => exact ⟨_, runEvents_nil s⟩
  | succ m ih =>
    obtain ⟨g, hg⟩ := ih (s := { s with guardCnt := s.tickGuard.guardCnt }) hw
    exact ⟨g, (runEvents_cons _ (performEvent_tick_of_not_waiting hw)).trans hg⟩

/-- A waiting receive that no byte reaches ends in TIMEOUT when its ticks have passed (43_receive.md R241, R242). -/
theorem runEvents_ticks_timeout {m : Nat} {s : State} (hw : s.rx.state.waiting = true)
    (hm : max s.rx.timer.toNat 1 ≤ m) :
    ∃ g, runEvents (List.replicate m .tick) s =
      .next { s with
        guardCnt := g, event := s.event ||| 1#4, rx := { s.rx with state := .timeout, timer := 0#16 } } := by
  induction m generalizing s with
  | zero => omega
  | succ m ih =>
    by_cases htimer : s.rx.timer.toNat ≤ 1
    · obtain ⟨g, hg⟩ := runEvents_ticks_of_not_waiting m (s := { s with
        guardCnt := s.tickGuard.guardCnt, event := s.event ||| 1#4,
        rx := { s.rx with state := .timeout, timer := 0#16 } }) rfl
      exact ⟨g, (runEvents_cons _ (performEvent_tick_of_expired hw htimer)).trans hg⟩
    · have hpred := toNat_half_pred (x := s.rx.timer) (by omega)
      obtain ⟨g, hg⟩ := ih (s := { s with
        guardCnt := s.tickGuard.guardCnt, rx := { s.rx with timer := s.rx.timer - 1#16 } }) hw
        (by dsimp only; omega)
      exact ⟨g, (runEvents_cons _ (performEvent_tick_of_running hw (by omega))).trans hg⟩

/-! ### Bytes (43_receive.md R234, R235) -/

/-- A byte outside a receive. -/
theorem performEvent_rxByte_of_not_waiting {s : State} (hw : s.rx.state.waiting = false) (b : Byte) :
    performEvent (.rxByte b) s = .next { s with event := s.event ||| 8#4 } :=
  if_neg (by simp [hw])

/-- A byte stored changes its own place and no other (43_receive.md R235). -/
theorem State.byteAt_storeReceived (s : State) (b : Byte) (a : Nat) :
    (s.storeReceived b).byteAt a = if a = 0x600 + s.rx.len.toNat then b else s.byteAt a :=
  State.byteAt_setByte s _ a b

/-- The rule of the receive state writes no buffer byte. -/
theorem State.byteAt_afterStored (s : State) (a : Nat) : s.afterStored.byteAt a = s.byteAt a := by
  obtain ⟨_, _, _, h⟩ := s.afterStored_frame
  rw [h]
  rfl

/-- Nor does it change the first bytes of RXBUF, however many. -/
theorem State.rxBytes_afterStored (s : State) (n : Nat) : s.afterStored.rxBytes n = s.rxBytes n :=
  List.map_congr_left fun i _ => s.byteAt_afterStored (rxAddr i)

/-- The first `k + 1` bytes of RXBUF are the first `k` and the next one. -/
theorem State.rxBytes_succ (s : State) (k : Nat) : s.rxBytes (k + 1) = s.rxBytes k ++ [s.rxByte k] := by
  simp [State.rxBytes, List.range_succ]

/-- The bytes received so far, after one more is stored. -/
theorem State.rxBytes_storeReceived (s : State) (b : Byte) :
    (s.storeReceived b).rxBytes (s.rx.len.toNat + 1) = s.rxBytes s.rx.len.toNat ++ [b] := by
  have hold : (s.storeReceived b).rxBytes s.rx.len.toNat = s.rxBytes s.rx.len.toNat :=
    List.map_congr_left fun i hi =>
      (s.rxByte_storeReceived b i).trans (if_neg (Nat.ne_of_lt (List.mem_range.mp hi)))
  rw [State.rxBytes_succ, hold, State.rxByte_storeReceived, if_pos rfl]

/-! ### A byte in each waiting state (43_receive.md R236..R239) -/

theorem State.afterStored_of_waitAddress {s : State} (h : s.rx.state = .waitAddress) :
    s.afterStored = s.afterAddress := by simp only [State.afterStored, h]

theorem State.afterStored_of_waitHeader {s : State} (h : s.rx.state = .waitHeader) :
    s.afterStored = s.afterHeader := by simp only [State.afterStored, h]

theorem State.afterStored_of_waitBody {s : State} (h : s.rx.state = .waitBody) :
    s.afterStored = s.afterBody := by simp only [State.afterStored, h]

/-- The address (R236). -/
theorem State.afterStored_address {s : State} (b : Byte) (hst : s.rx.state = .waitAddress) (hlen : s.rx.len = 0#9) :
    (s.storeReceived b).afterStored =
      { s with
        mem := (s.storeReceived b).mem,
        rx := { s.rx with
          len := 1#9, state := if s.rx.shape = .a then .waitHeader else .waitBody,
          timer := s.timeoutFor s.rx.scan } } := by
  have hl : s.rx.len + 1#9 = 1#9 := by rw [hlen]; rfl
  have hrule := State.afterStored_of_waitAddress (s := s.storeReceived b) hst
  rw [hrule, ← hl]
  rfl

/-- The function of a shape A frame (R237). -/
theorem State.afterStored_function {s : State} (b : Byte) (hst : s.rx.state = .waitHeader) (hlen : s.rx.len = 1#9) :
    (s.storeReceived b).afterStored = { s with mem := (s.storeReceived b).mem, rx := { s.rx with len := 2#9 } } := by
  have hl : s.rx.len + 1#9 = 2#9 := by rw [hlen]; rfl
  have hrule := State.afterStored_of_waitHeader (s := s.storeReceived b) hst
  rw [hrule, ← hl]
  exact if_neg (by simp [hl])

/-- The byte count is the byte just stored at index 2. -/
theorem State.rxByte_two_storeReceived {s : State} (b : Byte) (hlen : s.rx.len = 2#9) :
    (s.storeReceived b).rxByte 2 = b := by
  rw [State.rxByte_storeReceived, hlen]
  rfl

/-- A byte count within the limit gives the frame's length (R237). -/
theorem State.afterStored_count {s : State} {b : Byte} (hst : s.rx.state = .waitHeader) (hlen : s.rx.len = 2#9)
    (hb : b.toNat ≤ 252) :
    (s.storeReceived b).afterStored =
      { s with
        mem := (s.storeReceived b).mem,
        rx := { s.rx with
          len := 3#9, state := .waitBody, expect := BitVec.ofNat 9 (b.toNat + 5),
          timer := s.timeoutFor s.rx.scan } } := by
  have hl : s.rx.len + 1#9 = 3#9 := by rw [hlen]; rfl
  have hrule := State.afterStored_of_waitHeader (s := s.storeReceived b) hst
  have hcount := State.rxByte_two_storeReceived b hlen
  rw [hrule, ← hl]
  refine (if_pos hl).trans ((if_neg ?_).trans ?_)
  · rw [hcount]
    exact Nat.not_lt.mpr hb
  · rw [hcount]
    rfl

/-- A byte count above the limit is a framing error (R237). -/
theorem State.afterStored_count_of_lt {s : State} {b : Byte} (hst : s.rx.state = .waitHeader) (hlen : s.rx.len = 2#9)
    (hb : 252 < b.toNat) :
    (s.storeReceived b).afterStored =
      { s with
        mem := (s.storeReceived b).mem, event := s.event ||| 1#4,
        rx := { s.rx with
          len := 3#9, state := .framingError, expect := 0#9, crcCalc := 0#16, crcRecv := 0#16, timer := 0#16 } } := by
  have hl : s.rx.len + 1#9 = 3#9 := by rw [hlen]; rfl
  have hrule := State.afterStored_of_waitHeader (s := s.storeReceived b) hst
  rw [hrule, ← hl]
  refine (if_pos hl).trans ((if_pos ?_).trans rfl)
  rw [State.rxByte_two_storeReceived b hlen]
  exact hb

/-- A byte of the body that is not the last (R238). -/
theorem State.afterStored_body {s : State} (b : Byte) (hst : s.rx.state = .waitBody)
    (hlt : s.rx.len.toNat + 1 < s.rx.expect.toNat) :
    (s.storeReceived b).afterStored =
      { s with mem := (s.storeReceived b).mem, rx := { s.rx with len := s.rx.len + 1#9 } } := by
  have hexp := s.rx.expect.isLt
  have hsucc : (s.rx.len + 1#9).toNat = s.rx.len.toNat + 1 := toNat_len_succ (by omega)
  have hrule := State.afterStored_of_waitBody (s := s.storeReceived b) hst
  have hne : s.rx.len + 1#9 ≠ s.rx.expect := fun h => by
    rw [h] at hsucc
    omega
  rw [hrule]
  exact if_neg hne

/-- The last byte of a frame that fits its shape: the frame's two CRCs decide, and only COMPLETE loads the guard (R238,
R239, R245). -/
theorem State.afterStored_last {s : State} {b : Byte} (hst : s.rx.state = .waitBody)
    (hlast : s.rx.len.toNat + 1 = s.rx.expect.toNat) {f : List Byte}
    (hf : (s.storeReceived b).rxBytes s.rx.expect.toNat = f) (hfit : fitsShape s.rx.shape f) :
    (s.storeReceived b).afterStored =
      { s with
        mem := (s.storeReceived b).mem, event := s.event ||| 1#4,
        guardCnt := if computedCrc f = carriedCrc f then s.guard else s.guardCnt,
        rx := { s.rx with
          len := s.rx.expect, state := if computedCrc f = carriedCrc f then .complete else .crcError, timer := 0#16,
          crcCalc := computedCrc f, crcRecv := carriedCrc f } } := by
  have hexp := s.rx.expect.isLt
  have hsucc : (s.rx.len + 1#9).toNat = s.rx.len.toNat + 1 := toNat_len_succ (by omega)
  have hl : s.rx.len + 1#9 = s.rx.expect := BitVec.eq_of_toNat_eq (hsucc.trans hlast)
  have hrule := State.afterStored_of_waitBody (s := s.storeReceived b) hst
  have hself : BitVec.ofNat 9 (s.rx.len + 1#9).toNat = s.rx.expect := by rw [BitVec.ofNat_toNat, BitVec.setWidth_eq, hl]
  rw [← hl] at hf ⊢
  have hcheck := State.frameCheck_of_fits (hf ▸ hfit)
  rw [hf, hself] at hcheck
  rw [hrule]
  refine (if_pos hl).trans ?_
  show ((s.storeReceived b).noteVerdict ((s.storeReceived b).frameCheck s.rx.shape (s.rx.len + 1#9).toNat)).rxFinish
    ((s.storeReceived b).frameCheck s.rx.shape (s.rx.len + 1#9).toNat).state = _
  rw [hcheck]
  by_cases hcrc : computedCrc f = carriedCrc f
  · simp only [if_pos hcrc]
    rfl
  · simp only [if_neg hcrc]
    rfl

end Machine

open Machine

/-! ### A byte in a run (43_receive.md R235..R238) -/

/-- A byte that comes in a waiting state of a run is stored, and the rule of the state follows. -/
theorem ReceiverInv.performEvent_rxByte {s : State} (hs : ReceiverInv s) (hw : s.rx.state.waiting = true) (b : Byte) :
    performEvent (.rxByte b) s = .next (s.storeReceived b).afterStored :=
  (if_pos hw).trans (if_pos (hs.len_lt_of_waiting hw))

/-- At its expected length the frame in RXBUF fits its shape: the byte count is still the one the length came from
(R237, R238). -/
theorem ReceiverInv.fitsShape_of_last {s : State} (hs : ReceiverInv s) (b : Byte) (hst : s.rx.state = .waitBody)
    (hlast : s.rx.len.toNat + 1 = s.rx.expect.toNat) :
    fitsShape s.rx.shape ((s.storeReceived b).rxBytes s.rx.expect.toNat) := by
  obtain ⟨-, hb, ha⟩ := hs.body hst
  cases hsh : s.rx.shape with
  | a =>
    obtain ⟨h3, hcount⟩ := ha hsh
    rw [fitsShape_a_rxBytes, State.rxByte_storeReceived, if_neg (by omega)]
    rcases hs.expectRange with h0 | hrange
    · simp [h0] at hlast
    · omega
  | b =>
    obtain ⟨-, h8⟩ := hb hsh
    rw [fitsShape_b_rxBytes, h8]
    rfl

/-- A waiting receiver of a run, and the byte that comes: one of the rules above is the one that applies (R236..R238). -/
theorem ReceiverInv.waiting_cases {s : State} (hs : ReceiverInv s) (hw : s.rx.state.waiting = true) (b : Byte) :
    (s.rx.state = .waitAddress ∧ s.rx.len = 0#9) ∨ (s.rx.state = .waitHeader ∧ s.rx.len = 1#9) ∨
    (s.rx.state = .waitHeader ∧ s.rx.len = 2#9 ∧ b.toNat ≤ 252) ∨
    (s.rx.state = .waitHeader ∧ s.rx.len = 2#9 ∧ 252 < b.toNat) ∨
    (s.rx.state = .waitBody ∧ s.rx.len.toNat + 1 < s.rx.expect.toNat) ∨
    (s.rx.state = .waitBody ∧ s.rx.len.toNat + 1 = s.rx.expect.toNat) := by
  rcases RxState.waiting_cases hw with hst | hst | hst
  · obtain ⟨hlen, -⟩ := hs.address hst
    exact .inl ⟨hst, hlen⟩
  · right
    obtain ⟨-, hlen | hlen, -⟩ := hs.header hst
    · exact .inl ⟨hst, hlen⟩
    · right
      rcases Nat.lt_or_ge 252 b.toNat with hb | hb
      · exact .inr (.inl ⟨hst, hlen, hb⟩)
      · exact .inl ⟨hst, hlen, hb⟩
  · right; right; right; right
    obtain ⟨hlt, -⟩ := hs.body hst
    rcases Nat.lt_or_eq_of_le (Nat.succ_le_of_lt hlt) with h | h
    · exact .inl ⟨hst, h⟩
    · exact .inr ⟨hst, h⟩

/-! ### A receive of a frame (43_receive.md R230..R238) -/

/-- A frame that fits its shape has 5 to 257 bytes (30_encoding.md R132, R134). -/
theorem fitsShape_length {sh : Shape} {f : List Byte} (h : fitsShape sh f) : 5 ≤ f.length ∧ f.length ≤ 257 := by
  cases sh with
  | a =>
    obtain ⟨bc, -, h252, hlen⟩ := h
    omega
  | b =>
    have hlen : f.length = 8 := h
    omega

/-- A receive in a run that has the first `k` bytes of the frame `f` and waits for the next, no tick having come since
TIMER was loaded. -/
structure Receiving (t : State) (sh : Shape) (sc : Bool) (f : List Byte) (k : Nat) : Prop where
  inv : ReceiverInv t
  waiting : t.rx.state.waiting = true
  shape : t.rx.shape = sh
  scan : t.rx.scan = sc
  len : t.rx.len.toNat = k
  bytes : t.rxBytes k = f.take k
  timer : t.rx.timer = t.timeoutFor sc

/-- A receiver just armed has none of the bytes (R230). -/
theorem Receiving.of_rxArm (s : State) (sh : Shape) (sc : Bool) (f : List Byte) (hpend : s.rx.xactPend = false) :
    Receiving (s.rxArm sh sc) sh sc f 0 where
  inv := .of_armed rfl hpend ⟨rfl, rfl⟩ rfl rfl
  waiting := rfl
  shape := rfl
  scan := rfl
  len := rfl
  bytes := rfl
  timer := rfl

section

variable {t : State} {sh : Shape} {sc : Bool} {f : List Byte} {k : Nat} {b : Byte}

/-- RXBUF after the next byte of the frame (R235). -/
theorem Receiving.bytes_storeReceived (h : Receiving t sh sc f k) (hb : f[k]? = some b) :
    (t.storeReceived b).rxBytes (k + 1) = f.take (k + 1) := by
  have hstore := t.rxBytes_storeReceived b
  rw [h.len, h.bytes] at hstore
  rw [hstore, List.take_add_one, hb]
  rfl

/-- While the body is received, RX_EXPECT is the length of the frame (R237). -/
theorem Receiving.expect (h : Receiving t sh sc f k) (hfit : fitsShape sh f) (hst : t.rx.state = .waitBody) :
    t.rx.expect.toNat = f.length := by
  obtain ⟨-, hshb, hsha⟩ := h.inv.body hst
  rw [h.shape] at hshb hsha
  cases sh with
  | a =>
    obtain ⟨h3, hcount⟩ := hsha rfl
    obtain ⟨bc, hbc, -, hlen⟩ := hfit
    rw [h.len] at h3
    have hbyte : t.rxByte 2 = bc := by
      have h2 := State.rxBytes_getElem? t k 2
      rw [h.bytes, List.getElem?_take, if_pos (by omega), hbc, if_pos (by omega)] at h2
      exact (Option.some.inj h2).symm
    rw [hcount, hbyte, hlen]
  | b =>
    obtain ⟨-, h8⟩ := hshb rfl
    have hlen : f.length = 8 := hfit
    rw [h8, hlen]
    rfl

/-- The byte count of a frame that fits shape A is within the limit (30_encoding.md R132). -/
theorem Receiving.count_le (h : Receiving t sh sc f k) (hfit : fitsShape sh f) (hst : t.rx.state = .waitHeader)
    (hlen : t.rx.len = 2#9) (hb : f[k]? = some b) : b.toNat ≤ 252 := by
  obtain ⟨hsha, -⟩ := h.inv.header hst
  obtain rfl : k = 2 := h.len.symm.trans (congrArg BitVec.toNat hlen)
  obtain rfl : sh = .a := h.shape.symm.trans hsha
  obtain ⟨bc, hbc, h252, -⟩ := hfit
  cases hb.symm.trans hbc
  exact h252

/-- The next byte of the frame, if it is not the last: the receive goes on (R236..R238). -/
theorem Receiving.rxByte (h : Receiving t sh sc f k) (hfit : fitsShape sh f) (hb : f[k]? = some b)
    (hk : k + 1 < f.length) :
    ∃ mem rx, performEvent (.rxByte b) t = .next { t with mem := mem, rx := rx } ∧
      Receiving { t with mem := mem, rx := rx } sh sc f (k + 1) := by
  have hnext := h.inv.performEvent_rxByte h.waiting b
  have hinv := h.inv.afterStored b h.waiting (h.inv.len_lt_of_waiting h.waiting)
  have hbytes := h.bytes_storeReceived hb
  have hlen := h.len
  have hsel : t.timeoutFor t.rx.scan = t.timeoutFor sc := by rw [h.scan]
  rcases h.inv.waiting_cases h.waiting b with
    ⟨hst, hl⟩ | ⟨hst, hl⟩ | ⟨hst, hl, hcount⟩ | ⟨hst, hl, hcount⟩ | ⟨hst, hlt⟩ | ⟨hst, hlast⟩
  · -- the address
    rw [State.afterStored_address b hst hl] at hnext hinv
    refine ⟨_, _, hnext, hinv, ?_, h.shape, h.scan, ?_, hbytes, hsel⟩
    · dsimp only
      split <;> rfl
    · simp [← hlen, hl]
  · -- the function
    rw [State.afterStored_function b hst hl] at hnext hinv
    refine ⟨_, _, hnext, hinv, h.waiting, h.shape, h.scan, ?_, hbytes, h.timer⟩
    simp [← hlen, hl]
  · -- the byte count
    rw [State.afterStored_count hst hl hcount] at hnext hinv
    refine ⟨_, _, hnext, hinv, rfl, h.shape, h.scan, ?_, hbytes, hsel⟩
    simp [← hlen, hl]
  · -- no byte count of this frame is above the limit
    exact absurd (h.count_le hfit hst hl hb) (Nat.not_le.mpr hcount)
  · -- a byte of the body, not the last
    rw [State.afterStored_body b hst hlt] at hnext hinv
    refine ⟨_, _, hnext, hinv, h.waiting, h.shape, h.scan, ?_, hbytes, h.timer⟩
    rw [← hlen]
    exact toNat_len_succ (by have := t.rx.expect.isLt; omega)
  · -- the body ends with the frame, not before
    rw [h.expect hfit hst] at hlast
    omega

/-- The last byte of the frame ends the receive with the verdict on its CRC (R238, R239, R245). -/
theorem Receiving.lastByte (h : Receiving t sh sc f k) (hfit : fitsShape sh f) (hb : f[k]? = some b)
    (hk : k + 1 = f.length) :
    ∃ mem, performEvent (.rxByte b) t =
      .next { t with
        mem := mem, event := t.event ||| 1#4,
        guardCnt := if computedCrc f = carriedCrc f then t.guard else t.guardCnt,
        rx := { t.rx with
          len := t.rx.expect, state := if computedCrc f = carriedCrc f then .complete else .crcError, timer := 0#16,
          crcCalc := computedCrc f, crcRecv := carriedCrc f } } ∧
      ({ t with mem := mem } : State).rxBytes f.length = f ∧ t.rx.expect.toNat = f.length := by
  obtain ⟨h5, -⟩ := fitsShape_length hfit
  have hlen := h.len
  have hst : t.rx.state = .waitBody := by
    rcases RxState.waiting_cases h.waiting with hst | hst | hst
    · obtain ⟨hl, -⟩ := h.inv.address hst
      simp [hl] at hlen
      omega
    · obtain ⟨-, hl | hl, -⟩ := h.inv.header hst <;> simp [hl] at hlen <;> omega
    · exact hst
  have hexp := h.expect hfit hst
  have hbytes : (t.storeReceived b).rxBytes f.length = f := by
    rw [← hk, h.bytes_storeReceived hb, hk, List.take_length]
  refine ⟨(t.storeReceived b).mem, ?_, hbytes, hexp⟩
  rw [h.inv.performEvent_rxByte h.waiting b,
    State.afterStored_last hst (by omega) (hexp ▸ hbytes) (h.shape ▸ hfit)]

/-- The first bytes of a frame, none of them the last (R235..R238). -/
theorem Receiving.runEvents_take (h : Receiving t sh sc f 0) (hfit : fitsShape sh f) (hk : k < f.length) :
    ∃ mem rx, runEvents ((f.take k).map .rxByte) t = .next { t with mem := mem, rx := rx } ∧
      Receiving { t with mem := mem, rx := rx } sh sc f k := by
  induction k with
  | zero => exact ⟨t.mem, t.rx, runEvents_nil t, h⟩
  | succ k ih =>
    obtain ⟨mem, rx, hrun, hrec⟩ := ih (by omega)
    have hb : f[k]? = some f[k] := List.getElem?_eq_getElem (by omega)
    obtain ⟨mem', rx', hnext, hrec'⟩ := hrec.rxByte hfit hb hk
    refine ⟨mem', rx', ?_, hrec'⟩
    rw [List.take_add_one, hb, Option.toList_some, List.map_append, runEvents_append _ hrun]
    exact (runEvents_cons [] hnext).trans (runEvents_nil _)

end

/-- RX_START on a free receiver and the first bytes of a frame, none of them the last. -/
theorem runEvents_rxStart_take {s : State} {sh : Shape} {sc : Bool} {f : List Byte} {k : Nat}
    (hw : s.rx.state.waiting = false) (hpend : s.rx.xactPend = false) (hfit : fitsShape sh f) (hk : k < f.length) :
    ∃ mem rx, runEvents (commandEvents [.rxStart sh sc] ++ (f.take k).map .rxByte) s =
        .next { s.answer .written with mem := mem, rx := rx } ∧
      Receiving { s.answer .written with mem := mem, rx := rx } sh sc f k := by
  have hstart : performEvent (commandEvent (encode (.rxStart sh sc))) s = .next ((s.answer .written).rxArm sh sc) :=
    (performEvent_commandEvent rfl s).trans (exec_rxStart_of_free sh sc hw hpend)
  obtain ⟨mem, rx, hrun, hrec⟩ := (Receiving.of_rxArm (s.answer .written) sh sc f hpend).runEvents_take hfit hk
  exact ⟨mem, rx, (runEvents_cons _ hstart).trans hrun, hrec⟩

/-! ### How long a receive lasts (43_receive.md R240, R241, R250) -/

namespace Machine

/-- A state that is neither idle nor waiting is terminal (00_scope.md R15). -/
theorem RxState.terminal_of_not_waiting {r : RxState} (hidle : r ≠ .idle) (hw : r.waiting = false) :
    r.terminal = true := by
  cases r with
  | idle => exact absurd rfl hidle
  | waitAddress | waitHeader | waitBody => exact nomatch hw
  | complete | timeout | framingError | crcError => rfl

/-- How many times a receive may still load its timeout: at the address and at the byte count (R240). -/
def RxState.loadsLeft (r : RxState) : Nat :=
  match r with
  | .waitAddress => 2
  | .waitHeader => 1
  | .waitBody | .idle | .complete | .timeout | .framingError | .crcError => 0

/-- The ticks a waiting receive can still last: those of TIMER, and one timeout for each load to come. -/
def State.ticksLeft (s : State) : Nat :=
  s.rx.state.loadsLeft * max (s.timeoutFor s.rx.scan).toNat 1 + max s.rx.timer.toNat 1

end Machine

/-- A receive in a run that has begun and, if it still waits, lasts at most `n` ticks more. -/
structure LastsAtMost (s : State) (n : Nat) : Prop where
  inv : ReceiverInv s
  begun : s.rx.state ≠ .idle
  ticks : s.rx.state.waiting = true → s.ticksLeft ≤ n

/-- A receive with no tick left has ended. -/
theorem LastsAtMost.terminal {s : State} (h : LastsAtMost s 0) : s.rx.state.terminal = true := by
  refine RxState.terminal_of_not_waiting h.begun (Bool.eq_false_iff.mpr fun hw => ?_)
  have hticks := h.ticks hw
  simp only [State.ticksLeft] at hticks
  omega

/-- A receive that has ended lasts no tick more. -/
theorem LastsAtMost.of_terminal {s : State} (hs : ReceiverInv s) (h : s.rx.state.terminal = true) (n : Nat) :
    LastsAtMost s n where
  inv := hs
  begun hidle := by simp [hidle, RxState.terminal] at h
  ticks hw := nomatch (RxState.waiting_of_terminal h).symm.trans hw

/-- A tick keeps the receive unit's invariant. -/
theorem ReceiverInv.tick {s t : State} (hs : ReceiverInv s) (h : performEvent .tick s = .next t) : ReceiverInv t := by
  cases h
  rw [State.tickGuard_eq]
  exact hs.tickTimer.of_frame rfl (fun _ => id) fun _ => rfl

/-- A tick takes one from the ticks left (R241, R242). -/
theorem LastsAtMost.tick {s : State} {n : Nat} (h : LastsAtMost s n) :
    ∃ t, performEvent .tick s = .next t ∧ LastsAtMost t (n - 1) := by
  cases hw : s.rx.state.waiting with
  | false =>
    have hnext := performEvent_tick_of_not_waiting hw
    exact ⟨_, hnext, h.inv.tick hnext, h.begun, fun hw' => nomatch hw.symm.trans hw'⟩
  | true =>
    rcases Nat.lt_or_ge 1 s.rx.timer.toNat with htimer | htimer
    · have hnext := performEvent_tick_of_running hw htimer
      refine ⟨_, hnext, h.inv.tick hnext, h.begun, fun _ => ?_⟩
      have hpred := toNat_half_pred (x := s.rx.timer) (by omega)
      have hticks := h.ticks hw
      simp only [State.ticksLeft, State.timeoutFor] at hticks ⊢
      omega
    · have hnext := performEvent_tick_of_expired hw htimer
      exact ⟨_, hnext, .of_terminal (h.inv.tick hnext) rfl _⟩

/-- A byte adds nothing to the ticks left: it ends the receive, leaves TIMER alone or uses up a load (R236..R240). -/
theorem LastsAtMost.rxByte {s : State} {n : Nat} (h : LastsAtMost s n) (b : Byte) :
    ∃ t, performEvent (.rxByte b) s = .next t ∧ LastsAtMost t n := by
  cases hw : s.rx.state.waiting with
  | false =>
    have hnext := performEvent_rxByte_of_not_waiting hw b
    exact ⟨_, hnext, h.inv.rxByte hnext, h.begun, fun hw' => nomatch hw.symm.trans hw'⟩
  | true =>
    have hnext := h.inv.performEvent_rxByte hw b
    have hinv := h.inv.afterStored b hw (h.inv.len_lt_of_waiting hw)
    refine ⟨_, hnext, ?_⟩
    have hticks := h.ticks hw
    rcases h.inv.waiting_cases hw b with
      ⟨hst, hl⟩ | ⟨hst, hl⟩ | ⟨hst, hl, hcount⟩ | ⟨hst, hl, hcount⟩ | ⟨hst, hlt⟩ | ⟨hst, hlast⟩
    · -- the address: one of the two loads
      rw [State.afterStored_address b hst hl] at hinv ⊢
      refine ⟨hinv, ?_, fun _ => ?_⟩
      · dsimp only
        split <;> exact RxState.noConfusion
      · simp only [State.ticksLeft, State.timeoutFor, RxState.loadsLeft, hst] at hticks ⊢
        cases s.rx.shape <;> simp only [reduceIte, reduceCtorEq] <;> omega
    · -- the function
      rw [State.afterStored_function b hst hl] at hinv ⊢
      exact ⟨hinv, h.begun, fun _ => hticks⟩
    · -- the byte count: the last load
      rw [State.afterStored_count hst hl hcount] at hinv ⊢
      refine ⟨hinv, RxState.noConfusion, fun _ => ?_⟩
      simp only [State.ticksLeft, State.timeoutFor, RxState.loadsLeft, hst] at hticks ⊢
      omega
    · -- a byte count above the limit
      rw [State.afterStored_count_of_lt hst hl hcount] at hinv ⊢
      exact .of_terminal hinv rfl n
    · -- a byte of the body, not the last
      rw [State.afterStored_body b hst hlt] at hinv ⊢
      exact ⟨hinv, h.begun, fun _ => hticks⟩
    · -- the last byte
      rw [State.afterStored_last hst hlast rfl (h.inv.fitsShape_of_last b hst hlast)] at hinv ⊢
      refine .of_terminal hinv ?_ n
      dsimp only
      split <;> rfl

/-- A run of ticks and bytes takes the number of its ticks from the ticks left. -/
theorem LastsAtMost.runEvents {s : State} {n : Nat} (h : LastsAtMost s n) {es : List AgentEvent}
    (hes : ∀ e ∈ es, e = .tick ∨ ∃ b : Byte, e = .rxByte b) :
    ∃ t, runEvents es s = .next t ∧ LastsAtMost t (n - es.count .tick) := by
  induction es generalizing s n with
  | nil => exact ⟨s, runEvents_nil s, h⟩
  | cons e es ih =>
    obtain ⟨he, hrest⟩ := List.forall_mem_cons.mp hes
    rcases he with rfl | ⟨b, rfl⟩
    · obtain ⟨u, hu, hleft⟩ := h.tick
      obtain ⟨t, ht, hleft⟩ := ih hleft hrest
      refine ⟨t, (runEvents_cons es hu).trans ht, ?_⟩
      rwa [List.count_cons_self, Nat.add_comm, ← Nat.sub_sub]
    · obtain ⟨u, hu, hleft⟩ := h.rxByte b
      obtain ⟨t, ht, hleft⟩ := ih hleft hrest
      refine ⟨t, (runEvents_cons es hu).trans ht, ?_⟩
      rwa [List.count_cons_of_ne (by simp)]

/-! ### The statements -/

/-- Settles O21: TX_SEND's run of takes, from the state that XACT leaves; the last take ends it with the arm. -/
theorem xactArmsWithTheLastByte : Obligations.XactArmsWithTheLastByte := by
  intro s sh sc hbusy hw hpend hlen hguard
  have hxact : performEvent (commandEvent (encode (.xact sh sc))) s =
      .next (((s.answer .written).awaitXact sh sc).sent 0) :=
    (performEvent_commandEvent rfl s).trans (exec_xact_of_free sh sc hbusy hw hpend hlen)
  have hsent {k} := runEvents_takes (s := (s.answer .written).awaitXact sh sc) hguard (k := k)
  have hall := runEvents_takes_all (s := (s.answer .written).awaitXact sh sc) hguard hlen
  refine ⟨fun k hk => ⟨_, (runEvents_cons _ hxact).trans (hsent hk), rfl, rfl, rfl, rfl⟩,
    ⟨_, (runEvents_cons _ hxact).trans hall, ?_⟩⟩
  have hpos : BitVec.ofNat 9 s.tx.len.toNat = s.tx.len := by simp
  rw [State.endTransmission_of_pending rfl, ← armExpect_eq_ite]
  refine ⟨rfl, ?_, rfl, rfl, fun a => rfl⟩
  simp only [State.sent, State.awaitXact, State.answer_tx, hpos]

/-- Settles O30: the byte is stored by `State.storeReceived`, and each waiting state has its rule. -/
theorem byteInAReceive : Obligations.ByteInAReceive := by
  intro s b rest hs hw hpending
  have hu : ReceiverInv ({ s with pending := rest } : State) := hs.of_frame rfl (fun _ => id) fun _ => rfl
  obtain ⟨t, ht⟩ : ∃ t, (({ s with pending := rest } : State).storeReceived b).afterStored = t := ⟨_, rfl⟩
  have hbyte : ∀ a, t.byteAt a = if a = 0x600 + s.rx.len.toNat then b else s.byteAt a := fun a => by
    rw [← ht, State.byteAt_afterStored, State.byteAt_storeReceived]
    rfl
  refine ⟨t, (step_cons hpending).trans ((hu.performEvent_rxByte hw b).trans (congrArg _ ht)),
    (hbyte _).trans (if_pos rfl), fun a ha => (hbyte a).trans (if_neg ha), fun hst => ?_, fun hst hl => ?_,
    fun hst hl hcount => ?_, fun hst hl hcount => ?_, fun hst hlt => ?_, fun hst hlast => ?_⟩
  · obtain ⟨hl, -⟩ := hs.address hst
    rw [← ht, State.afterStored_address (s := { s with pending := rest }) b hst hl]
    rfl
  · rw [← ht, State.afterStored_function (s := { s with pending := rest }) b hst hl]
  · rw [← ht, State.afterStored_count (s := { s with pending := rest }) hst hl hcount]
    rfl
  · rw [← ht, State.afterStored_count_of_lt (s := { s with pending := rest }) hst hl hcount]
  · rw [← ht, State.afterStored_body (s := { s with pending := rest }) b hst hlt]
  · generalize hf : t.rxBytes s.rx.expect.toNat = f
    rw [← ht, State.rxBytes_afterStored] at hf
    have hlastByte := State.afterStored_last (s := { s with pending := rest }) hst hlast hf
      (hf ▸ hu.fitsShape_of_last b hst hlast)
    refine ⟨fun hcrc => ?_, fun hcrc => ?_⟩
    · rw [← ht, hlastByte, if_pos hcrc, if_pos hcrc]
    · rw [← ht, hlastByte, if_neg hcrc, if_neg hcrc]

/-- Settles O31: the tick's outcome by whether the receiver waits and how many ticks it has left. -/
theorem tickMovesBothCounters : Obligations.TickMovesBothCounters := by
  intro s rest hpending
  have hguard := ({ s with pending := rest } : State).tickGuard_guardCnt
  rw [step_cons hpending]
  cases hw : s.rx.state.waiting with
  | false =>
    exact ⟨_, performEvent_tick_of_not_waiting (s := { s with pending := rest }) hw, hguard, nofun, nofun,
      fun _ => rfl⟩
  | true =>
    rcases Nat.lt_or_ge 1 s.rx.timer.toNat with htimer | htimer
    · exact ⟨_, performEvent_tick_of_running (s := { s with pending := rest }) hw htimer, hguard,
        fun _ h => absurd htimer (Nat.not_lt.mpr h), fun _ _ => rfl, nofun⟩
    · exact ⟨_, performEvent_tick_of_expired (s := { s with pending := rest }) hw htimer, hguard,
        fun _ _ => rfl, fun _ h => absurd h (Nat.not_lt.mpr htimer), nofun⟩

/-- Settles O32: the bytes before the last keep the receive waiting, and the last one's rule decides. -/
theorem receiveOfAWholeFrame : Obligations.ReceiveOfAWholeFrame := by
  intro s sh sc f hw hpend hfit
  obtain ⟨h5, h257⟩ := fitsShape_length hfit
  obtain ⟨k, hk⟩ : ∃ k, k + 1 = f.length := ⟨f.length - 1, by omega⟩
  obtain ⟨mem, rx, hrun, hrec⟩ := runEvents_rxStart_take (sc := sc) hw hpend hfit (show k < f.length by omega)
  have hb : f[k]? = some f[k] := List.getElem?_eq_getElem (by omega)
  obtain ⟨mem', hlast, hbytes, hexp⟩ := hrec.lastByte hfit hb hk
  have hsplit : f = f.take k ++ [f[k]] := by
    conv_lhs => rw [← List.take_length (l := f), ← hk, List.take_add_one, hb]
    rfl
  have hmap : f.map AgentEvent.rxByte = (f.take k).map .rxByte ++ [.rxByte f[k]] :=
    (congrArg (List.map AgentEvent.rxByte) hsplit).trans List.map_append
  have hrun' := (runEvents_append [.rxByte f[k]] hrun).trans ((runEvents_cons [] hlast).trans (runEvents_nil _))
  rw [List.append_assoc, ← hmap] at hrun'
  refine ⟨_, hrun', hbytes, hexp, hexp, rfl, rfl, rfl, rfl, fun hcrc => ⟨if_pos hcrc, if_pos hcrc⟩,
    fun hcrc => ⟨if_neg hcrc, if_neg hcrc⟩, rfl, rfl, rfl, rfl, rfl⟩

/-- Settles O33: the receive waits with TIMER as loaded, and the ticks run it down. -/
theorem truncatedFrameTimesOut : Obligations.TruncatedFrameTimesOut := by
  intro s sh sc f k m hw hpend hfit hk hm
  obtain ⟨mem, rx, hrun, hrec⟩ := runEvents_rxStart_take (sc := sc) hw hpend hfit hk
  obtain ⟨g, hticks⟩ := runEvents_ticks_timeout (m := m) hrec.waiting (by rw [hrec.timer]; exact hm)
  exact ⟨_, (runEvents_append _ hrun).trans hticks, rfl, hrec.len, hrec.bytes, rfl⟩

/-- Settles O34: an armed receive has two loads to come; with no byte among the events TIMER runs down alone. -/
theorem receiveEndsWithinThreeTimeouts : Obligations.ReceiveEndsWithinThreeTimeouts := by
  intro s es hs hst htimer hes
  have hw : s.rx.state.waiting = true := by rw [hst]; rfl
  refine ⟨fun hcount => ?_, fun hticks hlen => ?_⟩
  · have hbound : LastsAtMost s (3 * max (s.timeoutFor s.rx.scan).toNat 1) := by
      refine ⟨hs, by simp [hst], fun _ => ?_⟩
      simp only [State.ticksLeft, hst, htimer, RxState.loadsLeft]
      omega
    obtain ⟨t, ht, hleft⟩ := hbound.runEvents hes
    rw [Nat.sub_eq_zero_of_le hcount] at hleft
    exact ⟨t, ht, hleft.terminal⟩
  · obtain ⟨g, hg⟩ := runEvents_ticks_timeout (m := es.length) hw (by rw [htimer]; exact hlen)
    rw [← List.eq_replicate_of_mem hticks] at hg
    exact ⟨_, hg, rfl⟩

/-- Settles O26: the arm and the rejection, and the row of the opcode map. -/
theorem rxStartArms : Obligations.RxStartArms := by
  refine ⟨fun s sh sc hw hpend => ?_, fun _ sh sc hbusy => exec_rxStart_of_busy sh sc hbusy, fun sh sc => ?_,
    reservedExactlyWhen_of_mem_opcodeMap
      (row := ⟨0x20#8, 0xFFFFFCFF#32, fun w => .rxStart (shapeField w) (scanField w)⟩) (by simp [opcodeMap])
      (by decide) (by decide)⟩
  · rw [exec_rxStart_of_free sh sc hw hpend, State.rxArm_of_not_pending sh sc hpend]
  · rw [append_scan_shapeBit]
    exact decode_encode (i := .rxStart sh sc) rfl

/-- Settles O27: the four outcomes of the three checks, and the row of the opcode map. -/
theorem xactStartsAndPends : Obligations.XactStartsAndPends := by
  refine ⟨fun s sh sc hbusy hw hpend hlen => ?_, fun _ sh sc hbusy => exec_xact_of_txBusy sh sc hbusy,
    fun _ sh sc hbusy => exec_xact_of_rxBusy sh sc hbusy,
    fun _ sh sc hbusy hw hpend hlen => exec_xact_of_empty sh sc hbusy hw hpend hlen, fun sh sc => ?_,
    reservedExactlyWhen_of_mem_opcodeMap
      (row := ⟨0x12#8, 0xFFFFFCFF#32, fun w => .xact (shapeField w) (scanField w)⟩) (by simp [opcodeMap])
      (by decide) (by decide)⟩
  · rw [exec_xact_of_free sh sc hbusy hw hpend hlen, State.sent_zero]
    rfl
  · rw [append_scan_shapeBit]
    exact decode_encode (i := .xact sh sc) rfl

/-- Settles O28: the two outcomes, and the row of the opcode map. -/
theorem rxAbortStopsTheReceive : Obligations.RxAbortStopsTheReceive :=
  ⟨fun _ => exec_rxAbort_of_waiting, fun _ => exec_rxAbort_of_not_waiting, decode_encode (i := .rxAbort) rfl,
    reservedExactlyWhen_of_mem_opcodeMap (row := ⟨0x21#8, 0xFFFFFFFF#32, fun _ => .rxAbort⟩) (by simp [opcodeMap])
      (by decide) (by decide)⟩

/-- Settles O29: the step performs the byte, and the byte is dropped. -/
theorem byteOutsideAReceiveIsDropped : Obligations.ByteOutsideAReceiveIsDropped := by
  intro s b rest hw hpending
  rw [step_cons hpending]
  exact performEvent_rxByte_of_not_waiting (s := { s with pending := rest }) hw b

end Sys2Proof

/-! Proofs of the statements on the median unit (44_median.md): the rings that nothing has written yet never show; the
median of three, one lane's output, the window of the last three samples. -/

namespace Sys2Proof

namespace Machine

/-! ### States that differ at most in rings not written yet (44_median.md R286, 70_reset_and_hazards.md R394) -/

/-- The state with other contents of the two rings. -/
def State.withRings (s : State) (r3 : Vector Sample 3) (r15 : Vector Sample 15) : State :=
  { s with med := { s.med with ring := r3 }, ma := { s.ma with ring := r15 } }

@[simp] theorem State.withRings_rx (s : State) (r3 : Vector Sample 3) (r15 : Vector Sample 15) :
    (s.withRings r3 r15).rx = s.rx := rfl

@[simp] theorem State.withRings_rxByte (s : State) (r3 : Vector Sample 3) (r15 : Vector Sample 15) (i : Nat) :
    (s.withRings r3 r15).rxByte i = s.rxByte i := rfl

/-- The second state is the first one up to a median ring that is not seeded and a moving-average ring that is not
configured. -/
inductive EqUpToRings (s : State) : State → Prop
  | intro (r3 : Vector Sample 3) (r15 : Vector Sample 15) (hmed : s.med.warm = true → r3 = s.med.ring)
      (hma : s.ma.n ≠ 0#4 → r15 = s.ma.ring) : EqUpToRings s (s.withRings r3 r15)

theorem EqUpToRings.refl (s : State) : EqUpToRings s s := .intro s.med.ring s.ma.ring (fun _ => rfl) fun _ => rfl

/-- The two operations end in the same way, and two next states are equal up to unwritten rings. -/
inductive AlikeUpToRings : Result → Result → Prop
  | next {s u : State} (h : EqUpToRings s u) : AlikeUpToRings (.next s) (.next u)
  | fault (f : Fault) : AlikeUpToRings (.fault f) (.fault f)

/-- Where the first operation goes on, the second one does. -/
theorem AlikeUpToRings.exists_next {a b : Result} {t : State} (h : AlikeUpToRings a b) (ha : a = .next t) :
    ∃ v, b = .next v ∧ EqUpToRings t v := by
  cases h with
  | next h =>
    cases ha
    exact ⟨_, rfl, h⟩
  | fault f => cases ha

/-- Two choices that decide alike are alike when their branches are. -/
theorem AlikeUpToRings.ite {c d : Prop} [Decidable c] [Decidable d] {a a' b b' : Result} (hcd : c ↔ d)
    (ha : c → AlikeUpToRings a a') (hb : ¬c → AlikeUpToRings b b') :
    AlikeUpToRings (if c then a else b) (if d then a' else b') := by
  by_cases hc : c
  · rw [if_pos hc, if_pos (hcd.mp hc)]
    exact ha hc
  · rw [if_neg hc, if_neg (mt hcd.mpr hc)]
    exact hb hc

/-! ### The commands -/

/-- A push onto a unit that is not seeded writes every slot: the old contents do not matter (44_median.md R281). -/
theorem MedUnit.store_of_ring {m : MedUnit} {r3 : Vector Sample 3} (h : m.warm = true → r3 = m.ring) (x : Sample) :
    { m with ring := r3 }.store x = m.store x := by
  cases hwarm : m.warm with
  | false => simp [MedUnit.store, hwarm]
  | true => rw [h hwarm, ← hwarm]

section

variable {s u : State}

/-- MED_PUSH leaves a median ring that is the same in both states. -/
theorem EqUpToRings.execMedPush (h : EqUpToRings s u) : AlikeUpToRings (execMedPush s) (execMedPush u) := by
  obtain ⟨r3, r15, hmed, hma⟩ := h
  have hpush : (s.withRings r3 r15).med.store (s.withRings r3 r15).medSample = s.med.store s.medSample :=
    MedUnit.store_of_ring hmed s.medSample
  unfold Machine.execMedPush
  rw [hpush]
  exact .next ⟨_, r15, fun _ => rfl, hma⟩

/-- MA_PUSH is rejected in both states, or runs on a ring that is the same in both. -/
theorem EqUpToRings.execMaPush (h : EqUpToRings s u) : AlikeUpToRings (execMaPush s) (execMaPush u) := by
  obtain ⟨r3, r15, hmed, hma⟩ := h
  refine .ite Iff.rfl (fun _ => .next ⟨r3, r15, hmed, hma⟩) fun hn => ?_
  obtain rfl := hma hn
  exact .next ⟨r3, _, hmed, fun _ => rfl⟩

/-- No command shows an unwritten ring: the two initialisations and the first MED_PUSH write it, MA_PUSH is rejected,
and the others do not look at it. -/
theorem EqUpToRings.exec (h : EqUpToRings s u) (i : Instr) : AlikeUpToRings (exec i s) (exec i u) := by
  cases i with
  | medPush => exact h.execMedPush
  | maPush => exact h.execMaPush
  | medInit =>
    obtain ⟨r3, r15, hmed, hma⟩ := h
    exact .next ⟨_, r15, fun _ => rfl, hma⟩
  | maInit n =>
    obtain ⟨r3, r15, hmed, hma⟩ := h
    exact .ite Iff.rfl (fun _ => .next ⟨r3, _, hmed, fun _ => rfl⟩) fun _ => .next ⟨r3, r15, hmed, hma⟩
  | softReset =>
    obtain ⟨r3, r15, hmed, hma⟩ := h
    exact .next ⟨r3, r15, nofun, fun hn => absurd rfl hn⟩
  | nop | crcInit | crcByte b =>
    obtain ⟨r3, r15, hmed, hma⟩ := h
    exact .next ⟨r3, r15, hmed, hma⟩
  | crcTxbuf n | rxStart sh sc | rxAbort =>
    obtain ⟨r3, r15, hmed, hma⟩ := h
    exact .ite Iff.rfl (fun _ => .next ⟨r3, r15, hmed, hma⟩) fun _ => .next ⟨r3, r15, hmed, hma⟩
  | encode len | txSend | decode sh len =>
    obtain ⟨r3, r15, hmed, hma⟩ := h
    exact .ite Iff.rfl (fun _ => .next ⟨r3, r15, hmed, hma⟩) fun _ =>
      .ite Iff.rfl (fun _ => .next ⟨r3, r15, hmed, hma⟩) fun _ => .next ⟨r3, r15, hmed, hma⟩
  | xact sh sc =>
    obtain ⟨r3, r15, hmed, hma⟩ := h
    exact .ite Iff.rfl (fun _ => .next ⟨r3, r15, hmed, hma⟩) fun _ =>
      .ite Iff.rfl (fun _ => .next ⟨r3, r15, hmed, hma⟩) fun _ =>
        .ite Iff.rfl (fun _ => .next ⟨r3, r15, hmed, hma⟩) fun _ => .next ⟨r3, r15, hmed, hma⟩

/-! ### The events -/

/-- The bus's answer is beside the rings. -/
theorem EqUpToRings.answer (h : EqUpToRings s u) (r : HostResp) : EqUpToRings (s.answer r) (u.answer r) := by
  obtain ⟨r3, r15, hmed, hma⟩ := h
  exact ⟨r3, r15, hmed, hma⟩

/-- No register is a ring (20_memory.md R90). -/
theorem EqUpToRings.writeReg (h : EqUpToRings s u) (r : Reg) (d : Word) :
    EqUpToRings (s.writeReg r d) (u.writeReg r d) := by
  obtain ⟨r3, r15, hmed, hma⟩ := h
  cases r <;> exact ⟨r3, r15, hmed, hma⟩

theorem EqUpToRings.issueCommand (h : EqUpToRings s u) (w : Word) :
    AlikeUpToRings (issueCommand w s) (issueCommand w u) := by
  unfold Machine.issueCommand
  cases decode w with
  | ok i => exact h.exec i
  | error code =>
    obtain ⟨r3, r15, hmed, hma⟩ := h
    exact .next ⟨r3, r15, hmed, hma⟩

theorem EqUpToRings.busWriteTarget (h : EqUpToRings s u) (a : Addr) : u.busWriteTarget a = s.busWriteTarget a := by
  obtain ⟨r3, r15, -, -⟩ := h
  rfl

theorem EqUpToRings.busRead (h : EqUpToRings s u) (a : Addr) : u.busRead a = s.busRead a := by
  obtain ⟨r3, r15, -, -⟩ := h
  rfl

theorem EqUpToRings.hostWriteEvent (h : EqUpToRings s u) (a : Addr) (d : Word) :
    AlikeUpToRings (hostWriteEvent a d s) (hostWriteEvent a d u) := by
  unfold Machine.hostWriteEvent
  rw [h.busWriteTarget]
  split
  · exact .next (h.answer _)
  · exact (h.answer _).issueCommand d
  · exact .next ((h.writeReg _ d).answer _)

theorem EqUpToRings.hostReadEvent (h : EqUpToRings s u) (a : Addr) :
    AlikeUpToRings (hostReadEvent a s) (hostReadEvent a u) := by
  unfold Machine.hostReadEvent
  rw [h.busRead]
  split <;> exact .next (h.answer _)

/-- The frame length's byte count and the length received decide alike, and only the receive unit, RX_DONE and the guard
are written (43_receive.md R235..R239). -/
theorem EqUpToRings.afterStored (h : EqUpToRings s u) : EqUpToRings s.afterStored u.afterStored := by
  obtain ⟨r3, r15, hmed, hma⟩ := h
  unfold State.afterStored
  rw [State.withRings_rx]
  split
  · exact ⟨r3, r15, hmed, hma⟩
  · unfold State.afterHeader
    rw [State.withRings_rx, State.withRings_rxByte]
    split
    · split <;> exact ⟨r3, r15, hmed, hma⟩
    · exact ⟨r3, r15, hmed, hma⟩
  · unfold State.afterBody
    rw [State.withRings_rx]
    split <;> exact ⟨r3, r15, hmed, hma⟩
  all_goals exact ⟨r3, r15, hmed, hma⟩

theorem EqUpToRings.rxByteEvent (h : EqUpToRings s u) (b : Byte) :
    AlikeUpToRings (rxByteEvent b s) (rxByteEvent b u) := by
  have hstored : EqUpToRings (s.storeReceived b) (u.storeReceived b) := by
    obtain ⟨r3, r15, hmed, hma⟩ := h
    exact ⟨r3, r15, hmed, hma⟩
  have hafter := hstored.afterStored
  obtain ⟨r3, r15, hmed, hma⟩ := h
  exact .ite Iff.rfl (fun _ => .ite Iff.rfl (fun _ => .next hafter) fun _ => .fault _) fun _ =>
    .next ⟨r3, r15, hmed, hma⟩

/-- The end of a transmission depends on a pending XACT alone (42_codec.md R204). -/
theorem EqUpToRings.endTransmission (h : EqUpToRings s u) : EqUpToRings s.endTransmission u.endTransmission := by
  obtain ⟨r3, r15, hmed, hma⟩ := h
  unfold State.endTransmission
  rw [State.withRings_rx]
  split <;> exact ⟨r3, r15, hmed, hma⟩

/-- The byte taken is the same in both, and so is whether it is the last one (42_codec.md R204). -/
theorem EqUpToRings.txAcceptEvent (h : EqUpToRings s u) : AlikeUpToRings (txAcceptEvent s) (txAcceptEvent u) := by
  have htaken : EqUpToRings
      { s with tx := { s.tx with pos := s.tx.pos + 1#9 }, txLine := s.txLine ++ [s.txByte s.tx.pos.toNat] }
      { u with tx := { u.tx with pos := u.tx.pos + 1#9 }, txLine := u.txLine ++ [u.txByte u.tx.pos.toNat] } := by
    obtain ⟨r3, r15, hmed, hma⟩ := h
    exact ⟨r3, r15, hmed, hma⟩
  have hend := htaken.endTransmission
  have htx : u.tx = s.tx := by
    cases h
    rfl
  have hvalid : u.txValid = s.txValid := by
    cases h
    rfl
  refine .ite (by rw [hvalid]) (fun _ => ?_) fun _ => .fault _
  simp only [htx] at htaken hend ⊢
  split
  · exact .next hend
  · exact .next htaken

theorem EqUpToRings.tickTimer (h : EqUpToRings s u) : EqUpToRings s.tickTimer u.tickTimer := by
  obtain ⟨r3, r15, hmed, hma⟩ := h
  unfold State.tickTimer
  rw [State.withRings_rx]
  split
  · split <;> exact ⟨r3, r15, hmed, hma⟩
  · exact ⟨r3, r15, hmed, hma⟩

theorem EqUpToRings.tickGuard (h : EqUpToRings s u) : EqUpToRings s.tickGuard u.tickGuard := by
  rw [State.tickGuard_eq, State.tickGuard_eq]
  obtain ⟨r3, r15, hmed, hma⟩ := h
  exact ⟨r3, r15, hmed, hma⟩

/-- A Reset gives both rings their values again (70_reset_and_hazards.md R390; log 2). -/
theorem EqUpToRings.resetEvent (h : EqUpToRings s u) : AlikeUpToRings (resetEvent s) (resetEvent u) := by
  cases h
  exact .next (.refl _)

theorem EqUpToRings.performEvent (h : EqUpToRings s u) (e : AgentEvent) :
    AlikeUpToRings (performEvent e s) (performEvent e u) := by
  cases e with
  | hostWrite a d => exact h.hostWriteEvent a d
  | hostRead a => exact h.hostReadEvent a
  | rxByte b => exact h.rxByteEvent b
  | txAccept => exact h.txAcceptEvent
  | tick => exact .next h.tickTimer.tickGuard
  | reset => exact h.resetEvent

theorem EqUpToRings.step (h : EqUpToRings s u) : AlikeUpToRings (step s) (step u) := by
  have hpending : u.pending = s.pending := by
    cases h
    rfl
  cases hp : s.pending with
  | nil =>
    rw [step_nil hp, step_nil (hpending.trans hp)]
    exact .next h
  | cons e rest =>
    rw [step_cons hp, step_cons (hpending.trans hp)]
    have hrest : EqUpToRings { s with pending := rest } { u with pending := rest } := by
      obtain ⟨r3, r15, hmed, hma⟩ := h
      exact ⟨r3, r15, hmed, hma⟩
    exact hrest.performEvent e

end

/-! ### The median of three and one lane's output (44_median.md R283, R284) -/

theorem med3_eq_or (a b c : Half) : med3 a b c = a ∨ med3 a b c = b ∨ med3 a b c = c := by
  unfold med3
  split
  · split
    · exact .inr (.inl rfl)
    · split
      · exact .inr (.inr rfl)
      · exact .inl rfl
  · split
    · exact .inl rfl
    · split
      · exact .inr (.inr rfl)
      · exact .inr (.inl rfl)

/-- The middle value, as the smaller of the larger ones. -/
theorem med3_toInt (a b c : Half) :
    (med3 a b c).toInt = max (min a.toInt b.toInt) (min (max a.toInt b.toInt) c.toInt) := by
  unfold med3
  split
  · split
    · omega
    · split <;> omega
  · split
    · omega
    · split <;> omega

/-- Two of the three the same: the median is that value. -/
theorem med3_self_right (a b : Half) : med3 a b b = b := by
  have h := med3_toInt a b b
  exact BitVec.eq_of_toInt_eq (by omega)

@[simp] theorem laneOut_sentinel (vo vm : Half) : laneOut vo vm Config.sentinel = Config.sentinel := if_pos rfl

/-- A reading whose window holds the sentinel passes through. -/
theorem laneOut_of_gap {vo vm vn : Half} (hn : vn ≠ Config.sentinel)
    (hgap : vm = Config.sentinel ∨ vo = Config.sentinel) : laneOut vo vm vn = vn := by
  rw [laneOut, if_neg hn, if_pos hgap]

theorem laneOut_of_readings {vo vm vn : Half} (hn : vn ≠ Config.sentinel) (hm : vm ≠ Config.sentinel)
    (ho : vo ≠ Config.sentinel) : laneOut vo vm vn = med3 vo vm vn := by
  rw [laneOut, if_neg hn, if_neg (not_or.mpr ⟨hm, ho⟩)]

/-- All that a lane's output can be (44_median.md R284). -/
theorem laneOut_cases (vo vm vn : Half) :
    (vn = Config.sentinel ∧ laneOut vo vm vn = Config.sentinel) ∨
    (vn ≠ Config.sentinel ∧ (vm = Config.sentinel ∨ vo = Config.sentinel) ∧ laneOut vo vm vn = vn) ∨
    (vn ≠ Config.sentinel ∧ vm ≠ Config.sentinel ∧ vo ≠ Config.sentinel ∧ laneOut vo vm vn = med3 vo vm vn) := by
  by_cases hn : vn = Config.sentinel
  · subst hn
    exact .inl ⟨rfl, laneOut_sentinel vo vm⟩
  · by_cases hgap : vm = Config.sentinel ∨ vo = Config.sentinel
    · exact .inr (.inl ⟨hn, hgap, laneOut_of_gap hn hgap⟩)
    · obtain ⟨hm, ho⟩ := not_or.mp hgap
      exact .inr (.inr ⟨hn, hm, ho, laneOut_of_readings hn hm ho⟩)

/-- The output is one of the three stored values. -/
theorem laneOut_eq_or (vo vm vn : Half) : laneOut vo vm vn = vo ∨ laneOut vo vm vn = vm ∨ laneOut vo vm vn = vn := by
  rcases laneOut_cases vo vm vn with ⟨hn, h⟩ | ⟨-, -, h⟩ | ⟨-, -, -, h⟩
  · exact .inr (.inr (h.trans hn.symm))
  · exact .inr (.inr h)
  · rw [h]
    exact med3_eq_or vo vm vn

theorem laneOut_eq_sentinel_iff (vo vm vn : Half) : laneOut vo vm vn = Config.sentinel ↔ vn = Config.sentinel := by
  rcases laneOut_cases vo vm vn with ⟨hn, h⟩ | ⟨-, -, h⟩ | ⟨hn, hm, ho, h⟩
  · exact iff_of_true h hn
  · rw [h]
  · refine iff_of_false (fun hs => ?_) hn
    rcases laneOut_eq_or vo vm vn with h' | h' | h'
    · exact ho (h'.symm.trans hs)
    · exact hm (h'.symm.trans hs)
    · exact hn (h'.symm.trans hs)

/-- The same value twice in a row is the output, whatever came before (44_median.md R288). -/
theorem laneOut_self_right (vo v : Half) : laneOut vo v v = v := by
  rcases laneOut_cases vo v v with ⟨hn, h⟩ | ⟨-, -, h⟩ | ⟨-, -, -, h⟩
  · exact h.trans hn.symm
  · exact h
  · exact h.trans (med3_self_right vo v)

/-! ### The window: the ring as its oldest, middle and newest sample (44_median.md R282, R289) -/

/-- The sample of the last push. -/
def MedUnit.newest (m : MedUnit) : Sample := m.ring[m.idx]

/-- The sample of the push before. -/
def MedUnit.middle (m : MedUnit) : Sample := m.ring[medAfter m.idx 2]

/-- The sample two pushes ago. -/
def MedUnit.oldest (m : MedUnit) : Sample := m.ring[medAfter m.idx 1]

/-- The index goes round the three slots (44_median.md R282: "mod 3"). -/
theorem medAfter_medAfter (i : Fin 3) (j k : Nat) : medAfter (medAfter i j) k = medAfter i (j + k) := by
  apply Fin.ext
  simp only [medAfter_val]
  omega

theorem medAfter_three (i : Fin 3) : medAfter i 3 = i := by
  apply Fin.ext
  simp only [medAfter_val]
  omega

theorem medAfter_ne_one {k : Nat} (hk : k % 3 ≠ 1) (i : Fin 3) : medAfter i k ≠ medAfter i 1 := by
  intro h
  have := congrArg Fin.val h
  simp only [medAfter_val] at this
  omega

section

variable (m : MedUnit) (x : Sample)

/-! A store shifts the window; the first one seeds it with the sample (R281). -/

@[simp] theorem MedUnit.store_newest : (m.store x).newest = x := by
  rw [MedUnit.newest, MedUnit.store_ring, MedUnit.store_idx, if_pos rfl]

@[simp] theorem MedUnit.store_middle : (m.store x).middle = if m.warm then m.newest else x := by
  rw [MedUnit.middle, MedUnit.store_ring, MedUnit.store_idx, medAfter_medAfter, if_neg (medAfter_ne_one (by decide) _),
    medAfter_three]
  rfl

@[simp] theorem MedUnit.store_oldest : (m.store x).oldest = if m.warm then m.middle else x := by
  rw [MedUnit.oldest, MedUnit.store_ring, MedUnit.store_idx, medAfter_medAfter, if_neg (medAfter_ne_one (by decide) _)]
  rfl

/-! The outputs are of the window, and computing them leaves it. -/

@[simp] theorem MedUnit.emit_newest : m.emit.newest = m.newest := rfl
@[simp] theorem MedUnit.emit_middle : m.emit.middle = m.middle := rfl
@[simp] theorem MedUnit.emit_oldest : m.emit.oldest = m.oldest := rfl

theorem MedUnit.emit_out_get (c : Fin 8) :
    m.emit.out.get c = laneOut (m.oldest.v.get c) (m.middle.v.get c) (m.newest.v.get c) := Lanes.get_ofFn _ c

theorem MedUnit.emit_tsOut : m.emit.tsOut = m.middle.ts := rfl

end

/-- MED_PUSH stores the sample and shows the outputs of the window (44_median.md R282). -/
theorem exec_medPush (s : State) : exec .medPush s = .next { s with med := (s.med.store s.medSample).emit } := rfl

/-- One lane of a push: of the two samples before and the new one, all three of them the new one on the first push. -/
theorem MedUnit.push_out_get (m : MedUnit) (x : Sample) (c : Fin 8) :
    (m.store x).emit.out.get c =
      if m.warm then laneOut (m.middle.v.get c) (m.newest.v.get c) (x.v.get c) else x.v.get c := by
  rw [MedUnit.emit_out_get, MedUnit.store_oldest, MedUnit.store_middle, MedUnit.store_newest]
  cases m.warm with
  | false => exact laneOut_self_right _ _
  | true => rfl

/-- The timestamp of a push is the previous sample's, on the first push the sample's own (44_median.md R285). -/
theorem MedUnit.push_tsOut (m : MedUnit) (x : Sample) :
    (m.store x).emit.tsOut = if m.warm then m.newest.ts else x.ts := by
  rw [MedUnit.emit_tsOut, MedUnit.store_middle]
  exact apply_ite Sample.ts _ _ _

/-- After a push the unit is warm and its newest sample is the pushed one; on a unit that was warm already the newest
sample before has become the middle one. -/
theorem medPushOf_window {x : Sample} {s t : State} (h : medPushOf x s = .next t) :
    t.med.warm = true ∧ t.med.newest = x ∧ (s.med.warm = true → t.med.middle = s.med.newest) := by
  cases h
  refine ⟨rfl, MedUnit.store_newest _ _, fun hwarm => ?_⟩
  exact (MedUnit.store_middle _ _).trans (if_pos hwarm)

/-- The outputs of a push of `x` (44_median.md R282, R285). -/
theorem medPushOf_outputs {x : Sample} {s t : State} (h : medPushOf x s = .next t) :
    (t.med.tsOut = if s.med.warm then s.med.newest.ts else x.ts) ∧
    ∀ c : Fin 8, t.med.out.get c =
      if s.med.warm then laneOut (s.med.middle.v.get c) (s.med.newest.v.get c) (x.v.get c) else x.v.get c := by
  cases h
  exact ⟨MedUnit.push_tsOut { s.med with tsIn := x.ts, inp := x.v } x,
    MedUnit.push_out_get { s.med with tsIn := x.ts, inp := x.v } x⟩

end Machine

open Machine

/-- Settles O14: a step keeps two states equal up to unwritten rings, event by event and command by command. -/
theorem unwrittenRingsNeverShow : Obligations.UnwrittenRingsNeverShow := by
  intro s t r3 r15 hmed hma hstep
  obtain ⟨v, hv, q3, q15, hmed', hma'⟩ := (EqUpToRings.intro r3 r15 hmed hma).step.exists_next hstep
  exact ⟨q3, q15, hmed', hma', hv⟩

/-- Settles O37: by the order of the three. -/
theorem medianOfThreeIsTheMiddleValue : Obligations.MedianOfThreeIsTheMiddleValue :=
  fun a b c => ⟨med3_eq_or a b c, med3_toInt a b c⟩

/-- Settles O38: by which of the three is the sentinel. -/
theorem laneOutputFollowsTheSentinelRules : Obligations.LaneOutputFollowsTheSentinelRules :=
  fun vo vm vn => ⟨(laneOut_eq_sentinel_iff vo vm vn).mpr, laneOut_of_gap, laneOut_of_readings,
    laneOut_eq_or vo vm vn, laneOut_eq_sentinel_iff vo vm vn⟩

/-- Settles O39: before the third push the window holds the first sample in the middle and the second one newest. -/
theorem medianWindowIsTheLastThreeSamples : Obligations.MedianWindowIsTheLastThreeSamples := by
  intro s t u v x y z hx hy hz
  obtain ⟨hwarm_t, hnewest_t, -⟩ := medPushOf_window hx
  obtain ⟨hwarm_u, hnewest_u, hmiddle_u⟩ := medPushOf_window hy
  obtain ⟨htsOut, hout⟩ := medPushOf_outputs hz
  simp only [hwarm_u, if_true, hnewest_u, hmiddle_u hwarm_t, hnewest_t] at htsOut hout
  exact ⟨htsOut, hout⟩

/-- Settles O40: the second push has the value in the middle and newest; a seeding push has it in all three places. -/
theorem medianConvergesOnConstantInput : Obligations.MedianConvergesOnConstantInput := by
  intro s t u x y c _ hsame hx hy
  obtain ⟨hwarm_t, hnewest_t, -⟩ := medPushOf_window hx
  constructor
  · rw [(medPushOf_outputs hy).2 c, if_pos hwarm_t, hnewest_t, hsame]
    exact laneOut_self_right _ _
  · intro hcold
    rw [(medPushOf_outputs hx).2 c, hcold]
    rfl

/-- Settles O35: the writes of MED_INIT, and the row of the opcode map. -/
theorem medInitClears : Obligations.MedInitClears := by
  refine ⟨fun s => ⟨_, rfl, rfl, rfl, rfl, rfl, rfl, rfl, Lanes.get_fill _, fun k => ?_⟩,
    decode_encode (i := .medInit) rfl,
    reservedExactlyWhen_of_mem_opcodeMap (row := ⟨0x30#8, 0xFFFFFFFF#32, fun _ => .medInit⟩) (by simp [opcodeMap])
      (by decide) (by decide)⟩
  have hslot : (Vector.replicate 3 Sample.cleared)[k] = Sample.cleared := Vector.getElem_replicate _
  exact ⟨congrArg Sample.ts hslot, fun c => (congrArg (Lanes.get ·.v c) hslot).trans (Lanes.get_fill _ c)⟩

/-- Settles O36: the unit after the push, seeded or shifted, and the row of the opcode map. -/
theorem medPushFiltersOneSample : Obligations.MedPushFiltersOneSample := by
  refine ⟨fun s => ⟨_, exec_medPush s, rfl, rfl, rfl, rfl, rfl, MedUnit.store_newest s.med s.medSample, ?_, ?_⟩,
    decode_encode (i := .medPush) rfl,
    reservedExactlyWhen_of_mem_opcodeMap (row := ⟨0x31#8, 0xFFFFFFFF#32, fun _ => .medPush⟩) (by simp [opcodeMap])
      (by decide) (by decide)⟩
  · intro hcold
    refine ⟨Lanes.ext_get fun c => ?_, ?_, fun k => ?_⟩
    · rw [MedUnit.push_out_get, hcold]
      rfl
    · rw [MedUnit.push_tsOut, hcold]
      rfl
    · simp only [MedUnit.emit_ring, MedUnit.store_ring, hcold]
      exact ite_self _
  · intro hwarm
    refine ⟨fun k hk => ?_, ?_, fun c => ?_⟩
    · have hne : k ≠ medAfter s.med.idx 1 := hk
      rw [MedUnit.emit_ring, MedUnit.store_ring, if_neg hne, if_pos hwarm]
    · rw [MedUnit.push_tsOut, if_pos hwarm]
      rfl
    · rw [MedUnit.push_out_get, if_pos hwarm]
      rfl

end Sys2Proof

/-! Proofs of the statements on the moving-average unit (45_moving_average.md): the two commands, the rounding, the
weighted sums as sums over the samples pushed, and what events do to the unit. -/

namespace Sys2Proof

namespace Machine

/-! ### Rounding (45_moving_average.md R320) -/

/-- The error of the rounded quotient, whatever the sign: that of the sizes. -/
theorem abs_roundHalfAway_mul_sub (num : Int) (den : Nat) :
    |roundHalfAway num den * den - num| = |((roundHalfAway num den).natAbs * den - num.natAbs : Int)| := by
  rw [natAbs_roundHalfAway]
  unfold roundHalfAway
  rcases le_or_gt 0 num with h | h
  · rw [if_pos h, Int.natAbs_of_nonneg h]
  · rw [if_neg (Int.not_le.mpr h), Int.ofNat_natAbs_of_nonpos h.le, ← abs_neg]
    congr 1
    ring

/-- The size of the rounded quotient is the size of the exact one plus one half, rounded down. -/
theorem natAbs_roundHalfAway_mul_bounds (num : Int) {den : Nat} (hden : 0 < den) :
    2 * ((roundHalfAway num den).natAbs * den) ≤ 2 * num.natAbs + den ∧
      2 * num.natAbs < 2 * ((roundHalfAway num den).natAbs * den) + den := by
  rw [natAbs_roundHalfAway]
  have hle := Nat.div_mul_le_self (2 * num.natAbs + den) (2 * den)
  have hlt := Nat.lt_div_mul_add (a := 2 * num.natAbs + den) (b := 2 * den) (by omega)
  rw [Nat.mul_left_comm] at hle hlt
  omega

/-- The rounded quotient is within one half of the exact one. -/
theorem abs_roundHalfAway_mul_sub_le (num : Int) {den : Nat} (hden : 0 < den) :
    2 * |roundHalfAway num den * den - num| ≤ den := by
  obtain ⟨hle, hlt⟩ := natAbs_roundHalfAway_mul_bounds num hden
  rw [abs_roundHalfAway_mul_sub, ← Int.natCast_mul, Int.abs_eq_natAbs]
  omega

/-- At an error of one half the rounded quotient is the larger one in size. -/
theorem abs_lt_of_roundHalfAway_tie {num : Int} {den : Nat} (hden : 0 < den)
    (htie : 2 * |roundHalfAway num den * den - num| = den) : |num| < |roundHalfAway num den * den| := by
  obtain ⟨hle, hlt⟩ := natAbs_roundHalfAway_mul_bounds num hden
  rw [abs_roundHalfAway_mul_sub, ← Int.natCast_mul, Int.abs_eq_natAbs] at htie
  rw [Int.abs_eq_natAbs, Int.abs_eq_natAbs, Int.natAbs_mul, Int.natAbs_natCast]
  omega

/-- A quotient that is at least an integer rounds to at least that integer, and the same from above (R321). -/
theorem roundHalfAway_mem_Icc {num lo hi : Int} {den : Nat} (hden : 0 < den) (hlo : lo * den ≤ num)
    (hhi : num ≤ hi * den) : lo ≤ roundHalfAway num den ∧ roundHalfAway num den ≤ hi := by
  have hnear := abs_roundHalfAway_mul_sub_le num hden
  obtain ⟨hbelow, habove⟩ := abs_le.mp (show |roundHalfAway num den * den - num| ≤ (den - 1 : Int) by omega)
  have hpos : (0 : Int) < den := by exact_mod_cast hden
  constructor <;> refine Int.le_of_lt_add_one (lt_of_mul_lt_mul_right ?_ hpos.le) <;> rw [add_mul] <;> omega

/-! ### The weighted sums of a window (45_moving_average.md R318, R319) -/

/-! How many ages a window counts and what each weighs, before it is full and from then on. -/

theorem maAges_of_lt {n seen : Nat} (h : seen < n) : maAges n seen = seen := if_pos h

theorem maAges_self (n : Nat) : maAges n n = n := if_neg (Nat.lt_irrefl n)

theorem maAges_zero (n : Nat) : maAges n 0 = 0 := by
  unfold maAges
  split <;> omega

theorem maAges_pos {n seen : Nat} (hn : 0 < n) (hseen : 0 < seen) : 0 < maAges n seen := by
  unfold maAges
  split <;> assumption

theorem maWeight_of_lt {n seen : Nat} (h : seen < n) (k : Nat) : maWeight n seen k = 2 := if_pos h

theorem maWeight_self (n k : Nat) : maWeight n n k = if k = 0 ∨ k = n - 1 then 1 else 2 := if_neg (Nat.lt_irrefl n)

theorem maWeight_pos (n seen k : Nat) : 0 < maWeight n seen k := by
  unfold maWeight
  split_ifs <;> decide

/-- The sum of `f` over the window's values, each with the weight of its age. -/
def weightedSum (n seen : Nat) (f : Half → Int) (x : Nat → Half) : Int :=
  ((List.range (maAges n seen)).map fun k => (maWeight n seen k : Int) * f (x k)).sum

theorem maNumerator_eq_weightedSum (n seen : Nat) (x : Nat → Half) :
    maNumerator n seen x = weightedSum n seen sampleValue x := by
  unfold maNumerator weightedSum
  congr 2
  funext k
  rw [sampleValue, mul_ite, mul_zero]

theorem maDenominator_eq_weightedSum (n seen : Nat) (x : Nat → Half) :
    (maDenominator n seen x : Int) = weightedSum n seen sampleCount x := by
  unfold maDenominator weightedSum
  rw [Nat.cast_list_sum, List.map_map]
  congr 2
  funext k
  rw [sampleCount, mul_ite, mul_zero, mul_one]
  exact Nat.cast_ite ..

theorem weightedSum_le_weightedSum {n seen : Nat} {f g : Half → Int} {x : Nat → Half} (h : ∀ k, f (x k) ≤ g (x k)) :
    weightedSum n seen f x ≤ weightedSum n seen g x :=
  List.sum_le_sum fun k _ => mul_le_mul_of_nonneg_left (h k) (Int.natCast_nonneg _)

theorem weightedSum_const_mul (n seen : Nat) (a : Int) (f : Half → Int) (x : Nat → Half) :
    weightedSum n seen (fun y => a * f y) x = a * weightedSum n seen f x := by
  unfold weightedSum
  rw [← List.sum_map_mul_left]
  congr 2
  funext k
  exact mul_left_comm ..

/-- Readings in an interval have their weighted mean there (R321). -/
theorem maNumerator_mem_Icc {n seen : Nat} {x : Nat → Half} {lo hi : Int}
    (h : ∀ k, x k ≠ Config.sentinel → lo ≤ (x k).toInt ∧ (x k).toInt ≤ hi) :
    lo * maDenominator n seen x ≤ maNumerator n seen x ∧ maNumerator n seen x ≤ hi * maDenominator n seen x := by
  rw [maNumerator_eq_weightedSum, maDenominator_eq_weightedSum, ← weightedSum_const_mul, ← weightedSum_const_mul]
  have hslot : ∀ k, lo * sampleCount (x k) ≤ sampleValue (x k) ∧ sampleValue (x k) ≤ hi * sampleCount (x k) := by
    intro k
    unfold sampleValue sampleCount
    split
    · simp
    · simpa using h k ‹_›
  exact ⟨weightedSum_le_weightedSum fun k => (hslot k).1, weightedSum_le_weightedSum fun k => (hslot k).2⟩

/-- A reading as the newest sample counts (R318). -/
theorem maDenominator_pos {n seen : Nat} {x : Nat → Half} (hn : 0 < n) (hseen : 0 < seen)
    (hx : x 0 ≠ Config.sentinel) : 0 < maDenominator n seen x := by
  have hage : 0 ∈ List.range (maAges n seen) := List.mem_range.mpr (maAges_pos hn hseen)
  exact (maWeight_pos n seen 0).trans_le (List.le_sum_of_mem (List.mem_map.mpr ⟨0, hage, if_neg hx⟩))

/-- The weights of a full window from age 0 on: half weight for the first and the last. -/
theorem weightedSum_full (m : Nat) (f : Half → Int) (x : Nat → Half) :
    weightedSum (m + 2) (m + 2) f x =
      2 * ((List.range (m + 2)).map fun k => f (x k)).sum - f (x 0) - f (x (m + 1)) := by
  have hfirst : maWeight (m + 2) (m + 2) 0 = 1 := by simp [maWeight_self]
  have hlast : maWeight (m + 2) (m + 2) (m + 1) = 1 := by simp [maWeight_self]
  have hinner : ∀ k ∈ List.range m,
      (maWeight (m + 2) (m + 2) (k + 1) : Int) * f (x (k + 1)) = 2 * f (x (k + 1)) := by
    intro k hk
    have hk := List.mem_range.mp hk
    rw [maWeight_self, if_neg (by omega)]
    rfl
  rw [weightedSum, maAges_self, List.range_succ, List.range_succ_eq_map]
  simp only [List.map_append, List.map_cons, List.map_nil, List.map_map, List.sum_append, List.sum_cons, List.sum_nil,
    Function.comp_def, Nat.succ_eq_add_one, List.map_congr_left hinner, List.sum_map_mul_left, hfirst, hlast]
  ring

/-- Where the value of age `k` is the `k`-th of a list, newest first, the weighted sum is the one over the list: twice
the plain sum before the window is full, the trapezoidal one of the last `n` from then on. -/
theorem weightedSum_eq_windowSum {n : Nat} (hn : 2 ≤ n) (f : Half → Int) (l : List Half) (x : Nat → Half)
    (hx : ∀ (k : Nat) (h : k < l.length), k < n → x k = l[k]) :
    weightedSum n (min l.length n) f x = windowSum n f l := by
  have hvalues : ∀ j ≤ min l.length n, (List.range j).map (fun k => f (x k)) = (l.take j).map f := by
    intro j hj
    refine List.ext_getElem (by simp; omega) fun k hk _ => ?_
    simp only [List.length_map, List.length_range] at hk
    simp [hx k (by omega) (by omega)]
  unfold windowSum
  split
  case isTrue hlt =>
    have hseen : min l.length n = l.length := by omega
    simp only [weightedSum, hseen, maAges_of_lt hlt, maWeight_of_lt hlt]
    rw [← List.take_length (l := l), ← hvalues l.length (by omega), ← List.sum_map_mul_left]
    simp
  case isFalse hge =>
    obtain ⟨m, rfl⟩ : ∃ m, n = m + 2 := ⟨n - 2, by omega⟩
    have hseen : min l.length (m + 2) = m + 2 := by omega
    have hhead : (l.take (m + 2)).headD 0#16 = x 0 := by
      rw [hx 0 (by omega) (by omega), List.headD_eq_head?_getD, List.head?_eq_getElem?,
        List.getElem?_take_of_lt (by omega), List.getElem?_eq_getElem, Option.getD_some]
    have hlast : (l.take (m + 2)).getLastD 0#16 = x (m + 1) := by
      have hlen : (l.take (m + 2)).length - 1 = m + 1 := by
        rw [List.length_take]
        omega
      rw [hx (m + 1) (by omega) (by omega), List.getLastD_eq_getLast?, List.getLast?_eq_getElem?, hlen,
        List.getElem?_take_of_lt (by omega), List.getElem?_eq_getElem, Option.getD_some]
    rw [hseen, weightedSum_full, hvalues _ (by omega), trapezoid, hhead, hlast]

/-! ### The commands (45_moving_average.md R310, R311, R315) -/

/-- The unit after MA_INIT of the window `n`: its inputs alone are kept (R310). -/
def MaUnit.init (u : MaUnit) (n : Nat) : MaUnit :=
  { u with
    n := BitVec.ofNat 4 n, widx := 0, seen := 0#4, tsv := false, ring := Vector.replicate 15 Sample.cleared,
    tsOut := 0#32, out := Lanes.fill Config.sentinel, num := Lanes.fill 0#32, den := Lanes.fill 0#5 }

/-- The unit after a push of `x` (R315). -/
def MaUnit.push (u : MaUnit) (x : Sample) : MaUnit := (u.store x).emit u.widx

theorem exec_maInit_of_valid {n : Nat} (h : validWindow n = true) (s : State) :
    exec (.maInit n) s = .next { s with ma := s.ma.init n } := if_pos h

theorem exec_maInit_of_not_valid {n : Nat} (h : validWindow n ≠ true) (s : State) :
    exec (.maInit n) s = .next (s.rejectCommand 0x40#8 .badWindow) := if_neg h

theorem exec_maPush_of_configured {s : State} (h : s.ma.n ≠ 0#4) :
    exec .maPush s = .next { s with ma := s.ma.push s.maSample } := if_neg h

theorem exec_maPush_of_not_configured {s : State} (h : s.ma.n = 0#4) :
    exec .maPush s = .next (s.rejectCommand 0x41#8 .notConfigured) := if_pos h

/-- A push on a configured unit changes the unit alone. -/
theorem eq_push_of_exec_maPush {s t : State} (hn : s.ma.n ≠ 0#4) (h : exec .maPush s = .next t) :
    t = { s with ma := s.ma.push s.maSample } := by
  rw [exec_maPush_of_configured hn] at h
  cases h
  rfl

/-- An accepted window size fits MA_N. -/
theorem toNat_ofNat_of_validWindow {n : Nat} (h : validWindow n = true) : (BitVec.ofNat 4 n).toNat = n := by
  obtain ⟨-, h15⟩ := validWindow_range h
  exact (BitVec.toNat_ofNat ..).trans (Nat.mod_eq_of_lt (by omega))

/-- Every slot of the ring is cleared (R310). -/
theorem MaUnit.init_ring (u : MaUnit) (n : Nat) (k : Fin 15) : (u.init n).ring[k] = Sample.cleared :=
  Vector.getElem_replicate _

/-! ### The outputs in their registers (45_moving_average.md R318, R321, R322) -/

theorem MaUnit.natAbs_laneNum_le (u : MaUnit) (w : Fin 15) (c : Fin 8) :
    (u.laneNum w c).natAbs ≤ 32767 * u.laneDen w c := natAbs_maNumerator_le _ _ _

/-- MA_OUT holds the rounded quotient exactly, where there is one. -/
theorem MaUnit.emit_out_toInt {u : MaUnit} {w : Fin 15} {c : Fin 8} (hden : u.laneDen w c ≠ 0) :
    ((u.emit w).out.get c).toInt = roundHalfAway (u.laneNum w c) (u.laneDen w c) := by
  have hround := natAbs_roundHalfAway_le (Nat.pos_of_ne_zero hden) (u.natAbs_laneNum_le w c)
  rw [emit_out_get, maRounded, if_neg hden, BitVec.toInt_ofInt]
  exact Int.bmod_eq_of_le (by omega) (by omega)

section

variable {u : MaUnit} (hn : validWindow u.n.toNat = true) (hseen : u.seen.toNat ≤ u.n.toNat) (w : Fin 15) (c : Fin 8)

include hn hseen

theorem MaUnit.laneDen_le : u.laneDen w c ≤ 28 := by
  obtain ⟨h3, h15⟩ := validWindow_range hn
  exact maDenominator_le h3 h15 hseen _

/-- MA_DEN holds the denominator exactly. -/
theorem MaUnit.emit_den_toNat : ((u.emit w).den.get c).toNat = u.laneDen w c := by
  have hden := laneDen_le hn hseen w c
  rw [emit_den_get, BitVec.toNat_ofNat]
  exact Nat.mod_eq_of_lt (by omega)

/-- MA_NUM holds the numerator exactly. -/
theorem MaUnit.emit_num_toInt : ((u.emit w).num.get c).toInt = u.laneNum w c := by
  have hden := laneDen_le hn hseen w c
  have hnum := u.natAbs_laneNum_le w c
  rw [emit_num_get, BitVec.toInt_ofInt]
  exact Int.bmod_eq_of_le (by omega) (by omega)

end

/-! ### The window: the ring by age (45_moving_average.md R316) -/

/-- Age 0 is the slot just written. -/
theorem maSlotIndex_zero {n : Nat} {w : Fin 15} (hw : w.val < n) (h15 : n ≤ 15) : maSlotIndex n w.val 0 = w := by
  apply Fin.ext
  rw [maSlotIndex_val (by omega) h15, Nat.sub_zero, Nat.add_mod_right, Nat.mod_eq_of_lt hw]

/-- The slot of age `a` lies `a` places before the newest one. -/
theorem maSlotIndex_of_add_mod {n w a : Nat} {k : Fin 15} (hk : k.val < n) (ha : a ≤ n) (h15 : n ≤ 15)
    (hw : (k.val + a) % n = w) : maSlotIndex n w a = k := by
  apply Fin.ext
  rw [maSlotIndex_val (by omega) h15, ← hw, Nat.add_sub_assoc ha, Nat.mod_add_mod, Nat.add_assoc,
    Nat.add_sub_cancel' ha, Nat.add_mod_right, Nat.mod_eq_of_lt hk]

/-- The slot one age further back is the slot of that age counted from the index one place before. -/
theorem maSlotIndex_succ {n w k : Nat} (hk : k < n) (h15 : n ≤ 15) :
    maSlotIndex n w (k + 1) = maSlotIndex n (maSlotIndex n w 1).val k := by
  have hleft : w + n - (k + 1) + n = w + n - 1 + (n - k) := by omega
  apply Fin.ext
  rw [maSlotIndex_val (by omega) h15, maSlotIndex_val (by omega) h15, maSlotIndex_val (by omega) h15,
    Nat.add_sub_assoc hk.le, Nat.mod_add_mod, ← hleft, Nat.add_mod_right]

/-- Within the window no other age has the slot of the newest sample. -/
theorem maSlotIndex_succ_ne {n k : Nat} {w : Fin 15} (hw : w.val < n) (hk : k + 1 < n) (h15 : n ≤ 15) :
    maSlotIndex n w.val (k + 1) ≠ w := by
  intro h
  have hval := congrArg Fin.val h
  rw [maSlotIndex_val (by omega) h15] at hval
  rcases Nat.lt_or_ge w.val (k + 1) with hlt | hge
  · rw [Nat.mod_eq_of_lt (by omega)] at hval
    omega
  · have hsub : w.val + n - (k + 1) = w.val - (k + 1) + n := by omega
    rw [hsub, Nat.add_mod_right, Nat.mod_eq_of_lt (by omega)] at hval
    omega

/-- The slot written last: one place before the write index. -/
def MaUnit.newest (u : MaUnit) : Fin 15 := maSlotIndex u.n.toNat u.widx.val 1

/-- The slot of age `k` (R316). -/
def MaUnit.recent (u : MaUnit) (k : Nat) : Sample := u.ring[maSlotIndex u.n.toNat u.newest.val k]

/-! What a push does to the unit; computing the outputs leaves the window. -/

section

variable (u : MaUnit) (x : Sample)

@[simp] theorem MaUnit.push_n : (u.push x).n = u.n := rfl

theorem MaUnit.push_widx_val (hn : u.n ≠ 0#4) : (u.push x).widx.val = (u.widx.val + 1) % u.n.toNat :=
  u.store_widx_val x hn

theorem MaUnit.push_seen_toNat : (u.push x).seen.toNat = min (u.seen.toNat + 1) u.n.toNat := u.store_seen_toNat x

theorem MaUnit.push_ring (k : Fin 15) : (u.push x).ring[k] = if k = u.widx then x else u.ring[k] := u.store_ring x k

theorem MaUnit.push_tsv :
    (u.push x).tsv = decide ((u.n.toNat - 1) / 2 < (u.push x).seen.toNat) := rfl

theorem MaUnit.push_tsOut :
    (u.push x).tsOut = (u.push x).ring[maSlotIndex u.n.toNat u.widx.val ((u.n.toNat - 1) / 2)].ts := rfl

end

/-- The store's new write index lies one place behind the slot it wrote. -/
theorem MaUnit.push_newest {u : MaUnit} (hw : u.widx.val < u.n.toNat) (h15 : u.n.toNat ≤ 15) (x : Sample) :
    (u.push x).newest = u.widx := by
  have hn : u.n ≠ 0#4 := fun h => by simp [h] at hw
  exact maSlotIndex_of_add_mod hw (by rw [push_n]; omega) h15 (MaUnit.push_widx_val u x hn).symm

section

variable {u : MaUnit} (hw : u.widx.val < u.n.toNat) (h15 : u.n.toNat ≤ 15) (x : Sample)

include hw h15

/-- The outputs of a push are of the window it leaves. -/
theorem MaUnit.push_recent_eq (k : Nat) :
    (u.push x).recent k = (u.push x).ring[maSlotIndex u.n.toNat u.widx.val k] := by
  simp only [recent, push_newest hw h15, push_n]

/-- A push makes its sample the newest (R316). -/
theorem MaUnit.push_recent_zero : (u.push x).recent 0 = x := by
  rw [push_recent_eq hw h15, push_ring, if_pos (maSlotIndex_zero hw h15)]

/-- A push makes every sample that stays in the window one older (R316). -/
theorem MaUnit.push_recent_succ {k : Nat} (hk : k + 1 < u.n.toNat) : (u.push x).recent (k + 1) = u.recent k := by
  rw [push_recent_eq hw h15, push_ring, if_neg (maSlotIndex_succ_ne hw hk h15), maSlotIndex_succ (by omega) h15]
  rfl

end

/-! ### The unit and the samples pushed since MA_INIT (45_moving_average.md R316..R319) -/

/-- The unit has the window `n` and has taken in the samples `ys`, the newest first, since MA_INIT: the outputs are
those of its window, which holds the last `n` of them, the rest of it cleared. -/
structure MaUnit.Holds (u : MaUnit) (n : Nat) (ys : List Sample) : Prop where
  size : u.n.toNat = n
  valid : validWindow n = true
  index : u.widx.val < n
  seen : u.seen.toNat = min ys.length n
  window : ∀ k < n, u.recent k = ys.getD k Sample.cleared
  outputs : u.emit u.newest = u

/-- A lane of the unit just initialised has no reading (R310). -/
theorem MaUnit.init_laneNum (u : MaUnit) (n : Nat) (w : Fin 15) (c : Fin 8) : (u.init n).laneNum w c = 0 := by
  show maNumerator _ 0 _ = 0
  rw [maNumerator, maAges_zero]
  rfl

theorem MaUnit.init_laneDen (u : MaUnit) (n : Nat) (w : Fin 15) (c : Fin 8) : (u.init n).laneDen w c = 0 := by
  show maDenominator _ 0 _ = 0
  rw [maDenominator, maAges_zero]
  rfl

/-- After MA_INIT the outputs are already those of the window, which is empty (R310). -/
theorem MaUnit.init_outputs (u : MaUnit) (n : Nat) (w : Fin 15) : (u.init n).emit w = u.init n := by
  have hnum : ((u.init n).emit w).num = Lanes.fill 0#32 := Lanes.ext_get fun c => by
    rw [emit_num_get, init_laneNum, Lanes.get_fill]
    rfl
  have hden : ((u.init n).emit w).den = Lanes.fill 0#5 := Lanes.ext_get fun c => by
    rw [emit_den_get, init_laneDen, Lanes.get_fill]
  have hout : ((u.init n).emit w).out = Lanes.fill Config.sentinel := Lanes.ext_get fun c => by
    rw [emit_out_get, init_laneDen, Lanes.get_fill]
    rfl
  have htsOut : ((u.init n).emit w).tsOut = 0#32 := by
    rw [emit_tsOut, init_ring]
    rfl
  have htsv : ((u.init n).emit w).tsv = false := by
    rw [emit_tsv]
    exact decide_eq_false (Nat.not_lt_zero _)
  calc (u.init n).emit w
      = { u.init n with
          tsOut := ((u.init n).emit w).tsOut, tsv := ((u.init n).emit w).tsv, out := ((u.init n).emit w).out
          num := ((u.init n).emit w).num, den := ((u.init n).emit w).den } := rfl
    _ = u.init n := by rw [htsOut, htsv, hout, hnum, hden]; rfl

theorem MaUnit.Holds.init (u : MaUnit) {n : Nat} (hvalid : validWindow n = true) : (u.init n).Holds n [] where
  size := toNat_ofNat_of_validWindow hvalid
  valid := hvalid
  index := Nat.lt_of_lt_of_le (by decide : 0 < 3) (validWindow_range hvalid).1
  seen := (Nat.zero_min _).symm
  window k _ := u.init_ring n _
  outputs := u.init_outputs n _

/-- The inputs are no part of it. -/
theorem MaUnit.Holds.of_inputs {u : MaUnit} {n : Nat} {ys : List Sample} (h : u.Holds n ys) (ts : Word)
    (v : Lanes Half) : MaUnit.Holds { u with tsIn := ts, inp := v } n ys where
  size := h.size
  valid := h.valid
  index := h.index
  seen := h.seen
  window := h.window
  outputs := congrArg (fun u => { u with tsIn := ts, inp := v }) h.outputs

/-- A push takes in its sample. -/
theorem MaUnit.Holds.push {u : MaUnit} {n : Nat} {ys : List Sample} (h : u.Holds n ys) (x : Sample) :
    (u.push x).Holds n (x :: ys) := by
  obtain ⟨rfl, hvalid, hindex, hseen, hwindow, -⟩ := h
  obtain ⟨h3, h15⟩ := validWindow_range hvalid
  have hn : u.n ≠ 0#4 := fun h => by simp [h] at h3
  constructor
  case size => rfl
  case valid => exact hvalid
  case index =>
    rw [push_widx_val u x hn]
    exact Nat.mod_lt _ (by omega)
  case seen =>
    rw [push_seen_toNat, hseen, List.length_cons]
    omega
  case window =>
    intro k hk
    cases k with
    | zero => exact push_recent_zero hindex h15 x
    | succ j => exact (push_recent_succ hindex h15 x hk).trans (hwindow j (by omega))
  case outputs =>
    rw [push_newest hindex h15]
    rfl

/-- Any number of pushes takes in the samples, the last one newest. -/
theorem MaUnit.Holds.pushAll {n : Nat} {xs ys : List Sample} {s t : State} (h : s.ma.Holds n ys)
    (ht : maPushAll xs s = .next t) : t.ma.Holds n (xs.reverse ++ ys) := by
  induction xs generalizing s ys with
  | nil =>
    cases ht
    exact h
  | cons x xs ih =>
    have hinputs := h.of_inputs x.ts x.v
    have hn : s.ma.n ≠ 0#4 := fun h0 => by
      have h3 := (validWindow_range h.valid).1
      simp [← h.size, h0] at h3
    have hpush : maPushOf x s =
        .next { s with ma := MaUnit.push { s.ma with tsIn := x.ts, inp := x.v } x } :=
      exec_maPush_of_configured (s := { s with ma := { s.ma with tsIn := x.ts, inp := x.v } }) hn
    simp only [maPushAll, hpush] at ht
    rw [List.reverse_cons, List.append_assoc]
    exact ih (hinputs.push x) ht

section

variable {u : MaUnit} {n : Nat} {ys : List Sample} (h : u.Holds n ys) (c : Fin 8)

include h

theorem MaUnit.Holds.validWindow_n : validWindow u.n.toNat = true := h.size.symm ▸ h.valid

theorem MaUnit.Holds.seen_le : u.seen.toNat ≤ u.n.toNat := by
  rw [h.seen, h.size]
  exact Nat.min_le_right _ _

/-- A sum over the window is the sum over the samples taken in. -/
theorem MaUnit.Holds.weightedSum_recent (f : Half → Int) :
    weightedSum u.n.toNat u.seen.toNat f (fun k => (u.recent k).v.get c) =
      windowSum n f (ys.map fun x => x.v.get c) := by
  obtain ⟨h3, -⟩ := validWindow_range h.valid
  rw [h.size, h.seen, ← List.length_map (fun x : Sample => x.v.get c)]
  refine weightedSum_eq_windowSum (by omega) f _ _ fun k hlen hk => ?_
  rw [List.length_map] at hlen
  rw [h.window k hk, List.getElem_map, List.getD_eq_getElem _ _ hlen]

theorem MaUnit.Holds.num_toInt : (u.num.get c).toInt = windowSum n sampleValue (ys.map fun x => x.v.get c) := by
  rw [← h.weightedSum_recent c, ← maNumerator_eq_weightedSum]
  exact (congrArg (fun v => (v.num.get c).toInt) h.outputs).symm.trans
    (MaUnit.emit_num_toInt h.validWindow_n h.seen_le u.newest c)

theorem MaUnit.Holds.den_toNat :
    ((u.den.get c).toNat : Int) = windowSum n sampleCount (ys.map fun x => x.v.get c) := by
  rw [← h.weightedSum_recent c, ← maDenominator_eq_weightedSum]
  exact congrArg Nat.cast ((congrArg (fun v => (v.den.get c).toNat) h.outputs).symm.trans
    (MaUnit.emit_den_toNat h.validWindow_n h.seen_le u.newest c))

theorem MaUnit.Holds.out :
    ((u.den.get c).toNat = 0 → u.out.get c = Config.sentinel) ∧
    ((u.den.get c).toNat ≠ 0 →
      (u.out.get c).toInt = roundHalfAway (u.num.get c).toInt (u.den.get c).toNat) := by
  rw [← h.outputs, MaUnit.emit_num_toInt h.validWindow_n h.seen_le,
    MaUnit.emit_den_toNat h.validWindow_n h.seen_le]
  exact ⟨fun hden => (MaUnit.emit_out_get ..).trans (if_pos hden), MaUnit.emit_out_toInt⟩

/-- The timestamp of the sample (N-1)/2 behind the newest, or of a cleared slot (R317). -/
theorem MaUnit.Holds.tsOut : u.tsOut = (ys.getD ((n - 1) / 2) Sample.cleared).ts := by
  obtain ⟨h3, -⟩ := validWindow_range h.valid
  rw [← h.window _ (by omega), ← h.size]
  exact (congrArg MaUnit.tsOut h.outputs).symm

theorem MaUnit.Holds.tsv : u.tsv = true ↔ (n - 1) / 2 < ys.length := by
  obtain ⟨h3, -⟩ := validWindow_range h.valid
  rw [← h.outputs, MaUnit.emit_tsv, decide_eq_true_iff, h.size, h.seen]
  omega

end

/-! ### What commands and events do to the unit (45_moving_average.md R325) -/

/-- A command other than MA_INIT and SOFT_RESET leaves the unit alone, unless it is a push on a configured unit. -/
theorem exec_ma_cases {i : Instr} {s t : State} (h : exec i s = .next t) :
    t.ma = s.ma ∨ (∃ n, i = .maInit n) ∨ i = .softReset ∨ (s.ma.n ≠ 0#4 ∧ t.ma = s.ma.push s.maSample) := by
  cases i with
  | nop | crcInit | crcByte | medInit | medPush =>
    cases h
    exact .inl rfl
  | crcTxbuf => rcases execCrcTxbuf_cases h with ⟨-, rfl⟩ | ⟨-, rfl⟩ <;> exact .inl rfl
  | encode => rcases execEncode_cases h with ⟨-, rfl⟩ | ⟨-, -, rfl⟩ | ⟨-, -, rfl⟩ <;> exact .inl rfl
  | txSend => rcases execTxSend_cases h with ⟨-, rfl⟩ | ⟨-, -, rfl⟩ | ⟨-, -, rfl⟩ <;> exact .inl rfl
  | xact => rcases execXact_cases h with ⟨-, rfl⟩ | ⟨-, -, rfl⟩ | ⟨-, -, -, rfl⟩ | ⟨-, -, -, rfl⟩ <;> exact .inl rfl
  | rxStart => rcases execRxStart_cases h with ⟨-, rfl⟩ | ⟨-, rfl⟩ <;> exact .inl rfl
  | rxAbort => rcases execRxAbort_cases h with ⟨-, rfl⟩ | ⟨-, rfl⟩ <;> exact .inl rfl
  | decode => rcases execDecode_cases h with ⟨-, rfl⟩ | ⟨-, -, rfl⟩ | ⟨-, -, rfl⟩ <;> exact .inl rfl
  | maInit n => exact .inr (.inl ⟨n, rfl⟩)
  | softReset => exact .inr (.inr (.inl rfl))
  | maPush =>
    rcases execMaPush_cases h with ⟨-, rfl⟩ | ⟨hn, rfl⟩
    · exact .inl rfl
    · exact .inr (.inr (.inr ⟨hn, rfl⟩))

/-- A write that reaches CMD with the word of a command is that command's event. -/
theorem hostWrite_eq_commandEvent {s : State} {a : Addr} {w : Word} {i : Instr} (ha : s.busWriteTarget a = some .cmd)
    (hw : decode w = .ok i) : AgentEvent.hostWrite a w = commandEvent (encode i) := by
  have haddr : a = 0x004#12 := BitVec.eq_of_toNat_eq
    ((registerMapIsTheTable.1 a .cmd).mp (State.busWriteTarget_eq_some ha).1).symm
  rw [commandEvent, haddr, (encode_of_decode hw).2]

/-- An event that is neither Reset nor an accepted command leaves the unit alone but for its inputs. -/
theorem performEvent_ma_cases {e : AgentEvent} {s t : State} (h : performEvent e s = .next t) :
    t.ma = { s.ma with tsIn := t.ma.tsIn, inp := t.ma.inp } ∨ e = .reset ∨
      ∃ i : Instr, i.WellFormed = true ∧ e = commandEvent (encode i) ∧ exec i (s.answer .written) = .next t := by
  cases e with
  | hostWrite a w =>
    rcases hostWriteEvent_cases h with ⟨-, rfl⟩ | ⟨ha, h⟩ | ⟨r, -, -, rfl⟩
    · exact .inl rfl
    · rcases issueCommand_cases h with ⟨i, hw, h⟩ | ⟨c, -, rfl⟩
      · exact .inr (.inr ⟨i, (encode_of_decode hw).1, hostWrite_eq_commandEvent ha hw, h⟩)
      · exact .inl rfl
    · exact .inl (State.writeReg_ma s r w)
  | hostRead a =>
    obtain ⟨r, rfl⟩ := hostReadEvent_cases h
    exact .inl rfl
  | rxByte b =>
    rcases rxByteEvent_cases h with ⟨-, rfl⟩ | ⟨-, -, rfl⟩
    · exact .inl rfl
    · obtain ⟨_, _, _, ht⟩ := State.afterStored_frame (s.storeReceived b)
      rw [ht]
      exact .inl rfl
  | txAccept =>
    obtain ⟨-, ⟨-, rfl⟩ | ⟨-, rfl⟩⟩ := txAcceptEvent_cases h
    · obtain ⟨_, _, ht⟩ := State.endTransmission_frame
        { s with tx := { s.tx with pos := s.tx.pos + 1#9 }, txLine := s.txLine ++ [s.txByte s.tx.pos.toNat] }
      rw [ht]
      exact .inl rfl
    · exact .inl rfl
  | tick =>
    cases h
    obtain ⟨_, _, _, ht⟩ := State.tickTimer_frame s
    rw [State.tickGuard_eq, ht]
    exact .inl rfl
  | reset => exact .inr (.inl rfl)

/-- A push into a full window leaves it full: the seen-count is capped at the window (R315). -/
theorem MaUnit.push_seen_of_full {u : MaUnit} (h : u.seen = u.n) (x : Sample) : (u.push x).seen = u.n := by
  apply BitVec.eq_of_toNat_eq
  rw [push_seen_toNat, h]
  omega

/-! ### A push and the readings of its window (45_moving_average.md R321, R324) -/

theorem MaUnit.store_seen_le (u : MaUnit) (x : Sample) : (u.store x).seen.toNat ≤ (u.store x).n.toNat := by
  rw [store_seen_toNat]
  exact Nat.min_le_right _ _

theorem MaUnit.push_num_toInt {u : MaUnit} (hvalid : validWindow u.n.toNat = true) (x : Sample) (c : Fin 8) :
    ((u.push x).num.get c).toInt = (u.store x).laneNum u.widx c :=
  emit_num_toInt (u := u.store x) hvalid (u.store_seen_le x) u.widx c

theorem MaUnit.push_den_toNat {u : MaUnit} (hvalid : validWindow u.n.toNat = true) (x : Sample) (c : Fin 8) :
    ((u.push x).den.get c).toNat = (u.store x).laneDen u.widx c :=
  emit_den_toNat (u := u.store x) hvalid (u.store_seen_le x) u.widx c

section

variable {u : MaUnit} {x : Sample} {c : Fin 8} {lo hi : Int} (hvalid : validWindow u.n.toNat = true)
  (hreadings : ∀ k : Fin 15, (u.push x).ring[k].v.get c ≠ Config.sentinel →
    lo ≤ ((u.push x).ring[k].v.get c).toInt ∧ ((u.push x).ring[k].v.get c).toInt ≤ hi)

include hvalid hreadings

/-- The exact quotient lies among the readings. -/
theorem MaUnit.push_num_mem_Icc :
    lo * ((u.push x).den.get c).toNat ≤ ((u.push x).num.get c).toInt ∧
      ((u.push x).num.get c).toInt ≤ hi * ((u.push x).den.get c).toNat := by
  rw [push_num_toInt hvalid, push_den_toNat hvalid]
  exact maNumerator_mem_Icc fun k => hreadings _

/-- So does the rounded one, where there is one. -/
theorem MaUnit.push_out_mem_Icc (hden : ((u.push x).den.get c).toNat ≠ 0) :
    lo ≤ ((u.push x).out.get c).toInt ∧ ((u.push x).out.get c).toInt ≤ hi := by
  rw [push_den_toNat hvalid] at hden
  rw [push, emit_out_toInt hden]
  obtain ⟨hlo, hhi⟩ := maNumerator_mem_Icc fun k => hreadings _
  exact roundHalfAway_mem_Icc (Nat.pos_of_ne_zero hden) hlo hhi

end

/-- A reading that is pushed counts. -/
theorem MaUnit.push_den_ne_zero {u : MaUnit} {x : Sample} {c : Fin 8} (hvalid : validWindow u.n.toNat = true)
    (hw : u.widx.val < u.n.toNat) (hx : x.v.get c ≠ Config.sentinel) : ((u.push x).den.get c).toNat ≠ 0 := by
  obtain ⟨h3, h15⟩ := validWindow_range hvalid
  have hseen : 0 < (u.store x).seen.toNat := by
    rw [store_seen_toNat]
    omega
  have hnewest : (u.store x).ring[maSlotIndex u.n.toNat u.widx.val 0] = x := by
    rw [store_ring, if_pos (maSlotIndex_zero hw h15)]
  rw [push_den_toNat hvalid]
  refine (maDenominator_pos (by rw [store_n]; omega) hseen ?_).ne'
  exact (congrArg (fun y : Sample => y.v.get c) hnewest).trans_ne hx

end Machine

open Machine

/-- The write index of a configured unit of a run lies in the window. -/
theorem MovingAverageInv.widx_lt {s : State} (hs : MovingAverageInv s) (hn : s.ma.n ≠ 0#4) :
    s.ma.widx.val < s.ma.n.toNat := hs.indexRange.resolve_right fun h => hn h.1

/-! ### The statements -/

/-- Settles O41: the two branches of MA_INIT, and the row of the opcode map. -/
theorem maInitConfiguresTheWindow : Obligations.MaInitConfiguresTheWindow := by
  refine ⟨fun s n hn => ?_, fun s n hn => ?_, fun n => ?_,
    reservedExactlyWhen_of_mem_opcodeMap (row := ⟨0x40#8, 0xFFFF00FF#32, fun w => .maInit (a8Field w).toNat⟩)
      (by simp [opcodeMap]) (by decide) (by decide)⟩
  · have hvalid := (validWindow_iff n).mpr hn
    refine ⟨_, exec_maInit_of_valid hvalid s, rfl, rfl, rfl, toNat_ofNat_of_validWindow hvalid, rfl, rfl, rfl, rfl,
      fun c => ⟨Lanes.get_fill _ c, Lanes.get_fill _ c, Lanes.get_fill _ c⟩, fun k => ?_⟩
    have hslot := s.ma.init_ring n k
    exact ⟨congrArg Sample.ts hslot, fun c => (congrArg (Lanes.get ·.v c) hslot).trans (Lanes.get_fill _ c)⟩
  · exact exec_maInit_of_not_valid (mt (validWindow_iff n).mp hn) s
  · have hword : encode (.maInit n.toNat) = 0#16 ++ n ++ 0x40#8 := by simp [encode, Instr.a16, Instr.a8, Instr.opcode]
    rw [← hword]
    exact decode_encode (i := .maInit n.toNat) (fitsA8_toNat n)

/-- Settles O42: the unit after the push field by field, and the row of the opcode map. -/
theorem maPushStoresAndAdvances : Obligations.MaPushStoresAndAdvances := by
  refine ⟨fun s hs hn => ?_, fun s hn => exec_maPush_of_not_configured hn, decode_encode (i := .maPush) rfl,
    reservedExactlyWhen_of_mem_opcodeMap (row := ⟨0x41#8, 0xFFFFFFFF#32, fun _ => .maPush⟩) (by simp [opcodeMap])
      (by decide) (by decide)⟩
  obtain ⟨-, h15⟩ := validWindow_range (hs.window.resolve_left hn)
  refine ⟨_, exec_maPush_of_configured hn, rfl, rfl, rfl, rfl, ?_, fun k hk => ?_, s.ma.push_widx_val _ hn,
    s.ma.push_seen_toNat _, ?_, fun k hk hmiddle => ?_⟩
  · exact (s.ma.push_ring _ _).trans (if_pos rfl)
  · exact (s.ma.push_ring _ _).trans (if_neg hk)
  · rw [MaUnit.push_tsv, decide_eq_true_iff]
  · simp only [MaUnit.push_tsOut, maSlotIndex_of_add_mod hk (by omega) h15 hmiddle]

/-- Settles O43: the unit holds the samples pushed, from MA_INIT on. -/
theorem movingAverageOfTheLastSamples : Obligations.MovingAverageOfTheLastSamples := by
  intro s t u n xs c hn hinit hpush
  have hvalid := (validWindow_iff n).mpr hn
  rw [exec_maInit_of_valid hvalid] at hinit
  cases hinit
  have hu := (MaUnit.Holds.init s.ma hvalid).pushAll hpush
  rw [List.append_nil] at hu
  obtain ⟨hsentinel, hrounded⟩ := hu.out c
  refine ⟨?_, ?_, hsentinel, hrounded, ?_, ?_⟩
  · exact hu.num_toInt c
  · exact hu.den_toNat c
  · rw [hu.tsOut, List.getD_eq_getElem?_getD]
    cases xs.reverse[(n - 1) / 2]? <;> rfl
  · rw [hu.tsv, List.length_reverse]

/-- Settles O44: by the size of the rounded quotient, whatever its sign. -/
theorem roundingIsNearestTiesAway : Obligations.RoundingIsNearestTiesAway :=
  fun num _ hden => ⟨abs_roundHalfAway_mul_sub_le num hden, abs_lt_of_roundHalfAway_tie hden⟩

/-- Settles O45: the weighted mean lies among the readings, and rounding keeps it there. -/
theorem maOutputLiesAmongTheReadings : Obligations.MaOutputLiesAmongTheReadings := by
  intro s t c lo hi hs h hn hreadings hden
  cases eq_push_of_exec_maPush hn h
  have hvalid := hs.window.resolve_left hn
  obtain ⟨hlo, hhi⟩ := MaUnit.push_out_mem_Icc hvalid hreadings fun h0 => hden (BitVec.eq_of_toNat_eq h0)
  obtain ⟨-, -, hsentinel⟩ := MaUnit.emit_outputs s.ma.widx (u := s.ma.store s.maSample) hvalid
    (s.ma.store_seen_le _) c
  exact ⟨hlo, hhi, mt hsentinel.mpr hden⟩

/-- Settles O46: the readings lie between `x` and `x`, and the pushed one is there. -/
theorem maConstantInputGivesTheConstant : Obligations.MaConstantInputGivesTheConstant := by
  intro s t c x hs h hn hx hinp hconst
  cases eq_push_of_exec_maPush hn h
  have hvalid := hs.window.resolve_left hn
  have hden : ((s.ma.push s.maSample).den.get c).toNat ≠ 0 :=
    MaUnit.push_den_ne_zero hvalid (hs.widx_lt hn) (hinp.trans_ne hx)
  have hreadings : ∀ k : Fin 15, (s.ma.push s.maSample).ring[k].v.get c ≠ Config.sentinel →
      x.toInt ≤ ((s.ma.push s.maSample).ring[k].v.get c).toInt ∧
        ((s.ma.push s.maSample).ring[k].v.get c).toInt ≤ x.toInt := by
    intro k hk
    rw [(hconst k).resolve_right hk]
    exact ⟨le_rfl, le_rfl⟩
  obtain ⟨hlo, hhi⟩ := MaUnit.push_out_mem_Icc hvalid hreadings hden
  obtain ⟨hnumLo, hnumHi⟩ := MaUnit.push_num_mem_Icc hvalid hreadings
  exact ⟨BitVec.eq_of_toInt_eq (le_antisymm hhi hlo), le_antisymm hnumHi hnumLo,
    fun h0 => hden (congrArg BitVec.toNat h0)⟩

/-- Settles O47: a push leaves a full window full, and no other event that is left touches the seen-count. -/
theorem steadyStatePersists : Obligations.SteadyStatePersists := by
  intro s t e rest _ _ hfull hpending hstep hreset hinit hsoft
  rw [step_cons hpending] at hstep
  rcases performEvent_ma_cases hstep with hma | he | ⟨i, hwf, rfl, hexec⟩
  · rw [hma]
    exact ⟨rfl, hfull⟩
  · exact absurd he hreset
  · rcases exec_ma_cases hexec with hma | ⟨n, rfl⟩ | rfl | ⟨-, hma⟩
    · rw [hma]
      exact ⟨rfl, hfull⟩
    · exact absurd rfl (hinit n (of_decide_eq_true hwf))
    · exact absurd rfl hsoft
    · rw [hma]
      exact ⟨rfl, MaUnit.push_seen_of_full hfull _⟩

end Sys2Proof

/-! Proofs of the statements on exceptions (60_exceptions.md): what a command does to ERR and EVENT by its first failing
check, which events an EVENT bit falls by, and the level of the interrupt output. -/

namespace Sys2Proof

namespace Machine

/-! ### A command's own checks (60_exceptions.md R360) -/

/-! Where `commandError` spells out RX_BUSY's condition or the window sizes, its checks in the terms of the command. -/

theorem commandError_xact (sh : Shape) (sc : Bool) (s : State) :
    commandError (.xact sh sc) s =
      if s.tx.busy then some .txBusy
      else if s.rxBusy then some .rxBusy
      else if s.tx.len = 0#9 then some .txEmpty
      else none :=
  if_congr Iff.rfl rfl (if_congr State.rxBusy_eq_true.symm rfl rfl)

theorem commandError_rxStart (sh : Shape) (sc : Bool) (s : State) :
    commandError (.rxStart sh sc) s = if s.rxBusy then some .rxBusy else none :=
  if_congr State.rxBusy_eq_true.symm rfl rfl

theorem commandError_decode (sh : Shape) (len : Nat) (s : State) :
    commandError (.decode sh len) s =
      if s.rxBusy then some .rxBusy else if 260 < len then some .badLength else none :=
  if_congr State.rxBusy_eq_true.symm rfl rfl

theorem commandError_maInit (n : Nat) (s : State) :
    commandError (.maInit n) s = if validWindow n then none else some .badWindow :=
  if_congr (validWindow_iff n).symm rfl rfl

/-- What the command `i` does to ERR and EVENT on its way from `s` to `t`: it is rejected with the error of its first
failing check and nothing else happens (R352), it keeps both but for an RX_DONE that it may set (42_codec.md R211), or it
is SOFT_RESET. -/
inductive CommandOutcome (i : Instr) (s t : State) : Prop where
  | rejected (e : ErrCode) (hcheck : commandError i s = some e) (ht : t = s.rejectCommand i.opcode e)
  | accepted (hcheck : commandError i s = none) (hi : i ≠ .softReset) (herr : t.err = s.err)
      (hevent : t.event = s.event ∨ t.event = s.event ||| evRxDone)
  | softReset (hi : i = .softReset) (ht : t = s.softReset)

/-- Every command has one of these outcomes. -/
theorem exec_outcome {i : Instr} {s t : State} (h : exec i s = .next t) : CommandOutcome i s t := by
  cases i with
  | nop | crcInit | crcByte | medInit | medPush =>
    cases h
    exact .accepted rfl nofun rfl (.inl rfl)
  | crcTxbuf n =>
    rcases execCrcTxbuf_cases h with ⟨hlen, rfl⟩ | ⟨hlen, rfl⟩
    · exact .rejected .badLength (if_pos hlen) rfl
    · exact .accepted (if_neg (Nat.not_lt.mpr hlen)) nofun rfl (.inl rfl)
  | encode len =>
    rcases execEncode_cases h with ⟨hbusy, rfl⟩ | ⟨hbusy, hlen, rfl⟩ | ⟨hbusy, hlen, rfl⟩
    · exact .rejected .txBusy (if_pos hbusy) rfl
    · exact .rejected .badLength (by simp [commandError, hbusy, hlen]) rfl
    · exact .accepted (by simp [commandError, hbusy, hlen]) nofun rfl (.inl rfl)
  | txSend =>
    rcases execTxSend_cases h with ⟨hbusy, rfl⟩ | ⟨hbusy, hlen, rfl⟩ | ⟨hbusy, hlen, rfl⟩
    · exact .rejected .txBusy (if_pos hbusy) rfl
    · exact .rejected .txEmpty (by simp [commandError, hbusy, hlen]) rfl
    · exact .accepted (by simp [commandError, hbusy, hlen]) nofun rfl (.inl rfl)
  | xact sh sc =>
    rcases execXact_cases h with ⟨hbusy, rfl⟩ | ⟨hbusy, hrx, rfl⟩ | ⟨hbusy, hrx, hlen, rfl⟩ | ⟨hbusy, hrx, hlen, rfl⟩
    · exact .rejected .txBusy (if_pos hbusy) rfl
    · exact .rejected .rxBusy (by simp [commandError_xact, hbusy, hrx]) rfl
    · exact .rejected .txEmpty (by simp [commandError_xact, hbusy, hrx, hlen]) rfl
    · exact .accepted (by simp [commandError_xact, hbusy, hrx, hlen]) nofun rfl (.inl rfl)
  | rxStart sh sc =>
    rcases execRxStart_cases h with ⟨hrx, rfl⟩ | ⟨hrx, rfl⟩
    · exact .rejected .rxBusy (by simp [commandError_rxStart, hrx]) rfl
    · exact .accepted (by simp [commandError_rxStart, hrx]) nofun rfl (.inl rfl)
  | rxAbort =>
    rcases execRxAbort_cases h with ⟨-, rfl⟩ | ⟨-, rfl⟩ <;> exact .accepted rfl nofun rfl (.inl rfl)
  | decode sh len =>
    rcases execDecode_cases h with ⟨hrx, rfl⟩ | ⟨hrx, hlen, rfl⟩ | ⟨hrx, hlen, rfl⟩
    · exact .rejected .rxBusy (by simp [commandError_decode, hrx]) rfl
    · exact .rejected .badLength (by simp [commandError_decode, hrx, hlen]) rfl
    · exact .accepted (by simp [commandError_decode, hrx, hlen]) nofun rfl (.inr rfl)
  | maInit n =>
    rcases execMaInit_cases h with ⟨hwindow, rfl⟩ | ⟨hwindow, rfl⟩
    · exact .rejected .badWindow (by simp [commandError_maInit, hwindow]) rfl
    · exact .accepted (by simp [commandError_maInit, hwindow]) nofun rfl (.inl rfl)
  | maPush =>
    rcases execMaPush_cases h with ⟨hn, rfl⟩ | ⟨hn, rfl⟩
    · exact .rejected .notConfigured (if_pos hn) rfl
    · exact .accepted (if_neg hn) nofun rfl (.inl rfl)
  | softReset =>
    cases h
    exact .softReset rfl rfl

/-! ### EVENT bits that stay (60_exceptions.md R357) -/

/-- Every EVENT bit that is 1 in `s` is 1 in `t`. -/
def State.EventsStay (s t : State) : Prop := s.event &&& t.event = s.event

/-- Bits set on top of EVENT leave it there (10_state.md R35). -/
theorem State.EventsStay.of_or {s t : State} {bits : BitVec 4} (h : t.event = s.event ||| bits) : s.EventsStay t := by
  rw [State.EventsStay, h]
  ext k hk
  simpa using Or.inl

theorem State.EventsStay.of_eq {s t : State} (h : t.event = s.event) : s.EventsStay t := by
  rw [State.EventsStay, h, BitVec.and_self]

theorem State.EventsStay.of_eq_or {s t : State} {bits : BitVec 4}
    (h : t.event = s.event ∨ t.event = s.event ||| bits) : s.EventsStay t :=
  h.elim .of_eq .of_or

/-- A register write other than EVENT's reaches no EVENT bit. -/
theorem State.writeReg_event_of_ne {s : State} {r : Reg} (d : Word) (h : r ≠ .event) :
    (s.writeReg r d).event = s.event := by
  cases r with
  | event => exact absurd rfl h
  | _ => rfl

/-- The end of a transmission sets TX_DONE (42_codec.md R204). -/
theorem State.endTransmission_event (s : State) : s.endTransmission.event = s.event ||| evTxDone := by
  rcases State.endTransmission_cases s with ⟨-, h⟩ | ⟨-, h⟩ <;> rw [h]

/-- A byte just stored sets RX_DONE at most (43_receive.md R239). -/
theorem State.afterStored_event {s : State} (hw : s.rx.state.waiting = true) :
    s.afterStored.event = s.event ∨ s.afterStored.event = s.event ||| evRxDone := by
  rcases State.afterStored_cases s hw with ⟨-, h⟩ | ⟨-, -, h⟩ | ⟨-, -, -, h⟩ | ⟨-, -, -, h⟩ | ⟨-, -, h⟩ | ⟨-, -, h⟩ <;>
    rw [h]
  · exact .inl rfl
  · exact .inl rfl
  · exact .inr rfl
  · exact .inl rfl
  · exact .inl rfl
  · exact .inr rfl

/-- A tick sets RX_DONE at most (43_receive.md R242). -/
theorem State.tick_event (s : State) :
    s.tickTimer.tickGuard.event = s.event ∨ s.tickTimer.tickGuard.event = s.event ||| evRxDone := by
  rw [State.tickGuard_eq]
  rcases State.tickTimer_cases s with ⟨-, h⟩ | ⟨-, -, h⟩ | ⟨-, -, h⟩ <;> rw [h]
  · exact .inl rfl
  · exact .inr rfl
  · exact .inl rfl

/-- A host write that reaches EVENT is one to its address (10_state.md R35). -/
theorem State.address_of_event_target {s : State} {a : Addr} (h : s.busWriteTarget a = some .event) : a = 0x00C#12 :=
  BitVec.eq_of_toNat_eq ((s.busWriteTarget_eq_some_iff a .event).mp h).1.symm

/-- An event that is neither a Reset nor a SOFT_RESET nor a host write to EVENT leaves every EVENT bit that is 1. -/
theorem performEvent_event_cases {e : AgentEvent} {s t : State} (h : performEvent e s = .next t) :
    s.EventsStay t ∨ e = .reset ∨ e = commandEvent (encode .softReset) ∨ ∃ d, e = .hostWrite 0x00C#12 d := by
  cases e with
  | hostWrite a d =>
    rcases hostWriteEvent_cases h with ⟨-, rfl⟩ | ⟨ha, h⟩ | ⟨r, -, ha, rfl⟩
    · exact .inl (.of_eq rfl)
    · rcases issueCommand_cases h with ⟨i, hw, h⟩ | ⟨c, -, rfl⟩
      · rcases exec_outcome h with ⟨c, -, rfl⟩ | ⟨-, -, -, hevent⟩ | ⟨rfl, -⟩
        · exact .inl (.of_or rfl)
        · exact .inl (.of_eq_or hevent)
        · exact .inr (.inr (.inl (hostWrite_eq_commandEvent ha hw)))
      · exact .inl (.of_or rfl)
    · by_cases hr : r = .event
      · rw [hr] at ha
        exact .inr (.inr (.inr ⟨d, by rw [State.address_of_event_target ha]⟩))
      · exact .inl (.of_eq (State.writeReg_event_of_ne d hr))
  | hostRead a =>
    obtain ⟨r, rfl⟩ := hostReadEvent_cases h
    exact .inl (.of_eq rfl)
  | rxByte b =>
    rcases rxByteEvent_cases h with ⟨-, rfl⟩ | ⟨hw, -, rfl⟩
    · exact .inl (.of_or rfl)
    · exact .inl (.of_eq_or (State.afterStored_event (s := s.storeReceived b) hw))
  | txAccept =>
    obtain ⟨-, ⟨-, rfl⟩ | ⟨-, rfl⟩⟩ := txAcceptEvent_cases h
    · exact .inl (.of_or (State.endTransmission_event _))
    · exact .inl (.of_eq rfl)
  | tick =>
    cases h
    exact .inl (.of_eq_or s.tick_event)
  | reset => exact .inr (.inl rfl)

/-! ### The level and the acknowledgement (60_exceptions.md R358, R363) -/

/-- The level is up exactly while some EVENT bit is pending and enabled. -/
theorem State.irq_iff (s : State) :
    s.irq = true ↔ ∃ k : Nat, s.event.getLsbD k = true ∧ s.irqEn.getLsbD k = true := by
  rw [State.irq, bne_iff_ne, ne_eq, BitVec.eq_of_getLsbD_eq_iff]
  constructor
  · intro h
    push Not at h
    obtain ⟨k, -, hk⟩ := h
    exact ⟨k, by simpa using hk⟩
  · rintro ⟨k, hevent, hen⟩ hzero
    have hk := hzero k (BitVec.lt_of_getLsbD hevent)
    simp [hevent, hen] at hk

/-- An acknowledgement takes away the bits that the host wrote as 1 and no others. -/
theorem State.ackEvents_getLsbD (s : State) (d : Word) (k : Nat) :
    (s.ackEvents d).event.getLsbD k = (s.event.getLsbD k && !d.getLsbD k) := by
  by_cases hk : k < 4
  · simp [hk]
  · simp [BitVec.getLsbD_of_ge s.event k (Nat.le_of_not_lt hk)]

/-- Once every pending bit is acknowledged the level is down. -/
theorem State.irq_ackEvents_of_eq {s : State} {d : Word} (h : d.extractLsb' 0 4 = s.event) :
    (s.ackEvents d).irq = false := by
  simp [State.irq, h]

/-- A step that writes to EVENT acknowledges the bits written. -/
theorem step_of_eventWrite {s : State} {d : Word} {rest : List AgentEvent}
    (h : s.pending = .hostWrite 0x00C#12 d :: rest) :
    step s = .next { s.ackEvents d with pending := rest, hostResp := .written } :=
  (step_cons h).trans (hostWriteEvent_of_address (a := 0x00C#12) (r := .event) d rfl nofun (by decide))

end Machine

open Machine

/-- Settles O7: of a command's outcomes, the one with a failing check. -/
theorem rejectedCommandChangesOnlyErr : Obligations.RejectedCommandChangesOnlyErr := by
  intro i s e he
  obtain ⟨t, h⟩ := exec_next i s
  rw [h]
  rcases exec_outcome h with ⟨e', hcheck, rfl⟩ | ⟨hcheck, -, -, -⟩ | ⟨rfl, -⟩
  · cases hcheck.symm.trans he
    rfl
  · cases hcheck.symm.trans he
  · cases he

/-- Settles O8: of a command's outcomes, those without a failing check; RX_DONE is not CMD_ERR. -/
theorem acceptedCommandKeepsErr : Obligations.AcceptedCommandKeepsErr := by
  intro i s hnone
  obtain ⟨t, h⟩ := exec_next i s
  refine ⟨t, h, ?_⟩
  rcases exec_outcome h with ⟨e, hcheck, -⟩ | ⟨-, hi, herr, hevent⟩ | ⟨rfl, rfl⟩
  · cases hcheck.symm.trans hnone
  · refine ⟨fun _ => ⟨herr, ?_⟩, fun hsoft => absurd hsoft hi⟩
    rcases hevent with hevent | hevent
    · rw [hevent]
    · rw [hevent, BitVec.and_or_distrib_right]
      exact BitVec.or_zero
  · exact ⟨fun hne => absurd rfl hne, fun _ => ⟨s.softReset_err, s.softReset_event⟩⟩

/-- Settles O54: the step performs the event, and the three by which a bit can fall are ruled out. -/
theorem eventBitsFallOnlyByTheHost : Obligations.EventBitsFallOnlyByTheHost := by
  intro s t e rest hpending hstep hreset hsoft hwrite
  rw [step_cons hpending] at hstep
  rcases performEvent_event_cases hstep with hstay | he | he | ⟨d, he⟩
  · exact hstay
  · exact absurd he hreset
  · exact absurd he hsoft
  · exact absurd he (hwrite d)

/-- Settles O55: the level bit by bit, and the acknowledgement that the write to EVENT is. -/
theorem irqIsTheLevelOfEnabledEvents : Obligations.IrqIsTheLevelOfEnabledEvents :=
  ⟨State.irq_iff, fun s d _ hpending =>
    ⟨_, step_of_eventWrite hpending, rfl, s.ackEvents_getLsbD d, State.irq_ackEvents_of_eq⟩⟩

end Sys2Proof

/-! Proof of the statement on the Reset event (70_reset_and_hazards.md R390): the step that performs it and the two
output levels after it. -/

namespace Sys2Proof

namespace Machine

/-- A Reset event's step takes the event off the list and puts the rest of the state at its reset values. -/
theorem step_of_reset {s : State} {rest : List AgentEvent} (h : s.pending = .reset :: rest) :
    step s = .next ({ s with pending := rest } : State).powerOnReset :=
  step_cons h

/-- No interrupt: EVENT and IRQ_EN are 0. -/
@[simp] theorem State.powerOnReset_irq (s : State) : s.powerOnReset.irq = false := by
  simp [State.irq, State.reset]

/-- Nothing to send: TX_BUSY is 0. -/
@[simp] theorem State.powerOnReset_txValid (s : State) : s.powerOnReset.txValid = false := rfl

end Machine

open Machine

/-- Settles O12: field by field of `State.powerOnReset`, the two filter units as `State.reset` has them. -/
theorem resetEventRestoresTheTable : Obligations.ResetEventRestoresTheTable := by
  intro s rest hpending
  refine ⟨_, step_of_reset hpending, State.powerOnReset_rx _, State.powerOnReset_tx _, State.powerOnReset_event _,
    State.powerOnReset_irqEn _, State.powerOnReset_err _, State.powerOnReset_crc _, State.powerOnReset_toNormal _,
    State.powerOnReset_toScan _, State.powerOnReset_guard _, State.powerOnReset_guardCnt _, ?_⟩
  rw [State.powerOnReset_med, State.powerOnReset_ma]
  exact ⟨rfl, rfl, rfl, rfl, rfl, rfl, rfl, rfl, rfl, rfl, rfl, rfl, rfl, rfl, rfl, rfl, State.powerOnReset_irq _,
    State.powerOnReset_txValid _, State.powerOnReset_pending _⟩

end Sys2Proof
